-- ==== Sys2Proof/Word.lean ====
section
/-! DEFINITION. The word types of the block: bytes of a payload or frame, the 32-bit command and status
word, the 16-bit CRC (00_scope.md R10, u8, u16, u32). -/

namespace Sys2Proof

/-- `u8`: one byte of a payload, a frame or a buffer (00_scope.md R10). -/
abbrev Byte := BitVec 8

/-- `u16`: the CRC register and the LEN field (00_scope.md R10). -/
abbrev Half := BitVec 16

/-- `u32`: the command word and the status word (00_scope.md R10). -/
abbrev Word := BitVec 32

end Sys2Proof
end

