-- ==== Sys2Proof/Config.lean ====
section
/-! DEFINITION. The implementation parameters of the block (00_scope.md R8, R9) and the free values: what the
spec leaves open, as constants without a body. -/

namespace Sys2Proof

/-- The bits [15:0] that the command format gives the LEN field (30_encoding.md R80): the most that `LEN_W` can be. -/
def Config.lenWidth : Nat := 16

/-- The parameters the model takes as arguments (00_scope.md R8). -/
structure Config.Params where
  /-- `WB_CAP`, capacity of the wire buffer in bytes. -/
  wbCap : Nat
  /-- `PBUF_CAP`, capacity of the payload buffer in bytes. -/
  pbufCap : Nat
  /-- `LEN_W`, width of the command's LEN field in bits. -/
  lenW : Nat
  /-- `BUS_TIMEOUT_MS`, the timeout passed to every transport write and read. -/
  busTimeoutMs : Nat
  /-- `HEX_SENTINEL`, the byte a hex pair with an invalid digit decodes to. -/
  hexSentinel : Byte
deriving DecidableEq, Repr

/-- The values this hardware takes (00_scope.md R8). -/
def Config.defaults : Config.Params where
  wbCap := 256
  pbufCap := 256
  lenW := 16
  busTimeoutMs := 100
  hexSentinel := 0xFF#8

/-- The constraints `PBUF_CAP >= WB_CAP - 2` and `2^LEN_W - 1 >= WB_CAP` (00_scope.md R9), the first written
without the subtraction, and that the command format has room for LEN. Parameters that break one are refused
(60_exceptions.md R221, log 9). -/
abbrev Config.Params.Ok (p : Config.Params) : Prop :=
  p.wbCap ≤ p.pbufCap + 2 ∧ p.wbCap ≤ 2 ^ p.lenW - 1 ∧ p.lenW ≤ Config.lenWidth

/-- FREE VALUE (log 6): the byte of the `k`-th draw. Drawn for a payload cell that holds no value
(10_state.md R43: "The hardware transmits whatever the RAM holds") and for a host read of PBUF while BUSY
(20_memory.md R55: "an unspecified byte, which the model draws freely"). -/
opaque Config.freeByte : Nat → Byte

/-- FREE VALUE (log 12): the `k`-th free choice. It decides which of two faults that both apply to one host
access is the one recorded, where the spec gives no order between them. -/
opaque Config.freeChoice : Nat → Bool

end Sys2Proof
end

