-- ==== Sys2Proof/Syntax.lean ====
section
/-! DEFINITION. The commands of the block: one constructor per row of spec/opcode_table.json
(30_encoding.md R80, R81). -/

namespace Sys2Proof

/-- The two wire encodings, the value of CFG.MODE and of INIT's MODE bit: 0 ASCII, 1 RTU (30_encoding.md R88). -/
inductive Mode where
  | ascii
  | rtu
deriving DecidableEq, Repr

/-- The three host commands (30_encoding.md R81). A length is a count of bytes; that it fits the LEN field is
`Instr.WellFormed`. -/
inductive Instr where
  /-- INIT: the mode, and whether the transport provides `idle_fn` (41_commands.md R133). -/
  | init (mode : Mode) (idle : Bool)
  /-- REQUEST_WRITE: the payload length in bytes (41_commands.md R135). -/
  | requestWrite (n : Nat)
  /-- ANSWER_READ: the expected payload length in bytes (41_commands.md R136). -/
  | answerRead (n : Nat)
deriving DecidableEq, Repr

end Sys2Proof
end

