-- ==== Sys2Proof/WellFormed.lean ====
section
/-! DEFINITION. Which instructions the command word can hold: a length fits the LEN field, "unsigned, with
range 0 to 65535" (30_encoding.md R83). -/

namespace Sys2Proof

/-- The instruction's operands fit their fields (30_encoding.md R80, R83). -/
def Instr.WellFormed : Instr → Prop
  | .init _ _ => True
  | .requestWrite n => n < 2 ^ Config.lenWidth
  | .answerRead n => n < 2 ^ Config.lenWidth

/-- The same check as a Bool, for tests. -/
def Instr.wellFormed : Instr → Bool
  | .init _ _ => true
  | .requestWrite n => decide (n < 2 ^ Config.lenWidth)
  | .answerRead n => decide (n < 2 ^ Config.lenWidth)

end Sys2Proof
end

