-- ==== Sys2Proof/Decode.lean ====
section
/-! DEFINITION. The decoder of the command word, total on 32-bit words (30_encoding.md R84), and the encoder
written from the same format (30_encoding.md R80-R82). -/

namespace Sys2Proof

/-- Why a word is no command (30_encoding.md R85). -/
inductive DecodeError where
  /-- OPC 0x3 to 0xF: fault 4. -/
  | reservedOpcode
  /-- A defined OPC with a must-be-zero bit set: fault 5. -/
  | reservedBits
deriving DecidableEq, Repr

/-- `w[31:28]`, OPC (30_encoding.md R80). -/
def fieldOpc (w : Word) : BitVec 4 := w.extractLsb' 28 4

/-- `w[17]`, IDLE_EN (30_encoding.md R80). -/
def fieldIdle (w : Word) : Bool := w.getLsbD 17

/-- `w[16]`, MODE (30_encoding.md R80, R88). -/
def fieldMode (w : Word) : Mode := if w.getLsbD 16 then .rtu else .ascii

/-- `w[15:0]`, LEN, an unsigned number (30_encoding.md R83). -/
def fieldLen (w : Word) : Nat := (w.extractLsb' 0 16).toNat

/-- `decode(w)` of 30_encoding.md R84. -/
def decode (w : Word) : Except DecodeError Instr :=
  if fieldOpc w = 0x0#4 then
    if w &&& 0xFFFCFFFF#32 = 0#32 then .ok (.init (fieldMode w) (fieldIdle w)) else .error .reservedBits
  else if fieldOpc w = 0x1#4 then
    if w &&& 0x0FFF0000#32 = 0#32 then .ok (.requestWrite (fieldLen w)) else .error .reservedBits
  else if fieldOpc w = 0x2#4 then
    if w &&& 0x0FFF0000#32 = 0#32 then .ok (.answerRead (fieldLen w)) else .error .reservedBits
  else .error .reservedOpcode

/-- The instruction's length fits a LEN field of `lenW` bits. INIT's LEN is 0 (30_encoding.md R80). -/
def Instr.lenFits (lenW : Nat) : Instr → Bool
  | .init _ _ => true
  | .requestWrite n => decide (n < 2 ^ lenW)
  | .answerRead n => decide (n < 2 ^ lenW)

/-- Decoding with `LEN_W` as the parameters have it: at the hardware's 16 it is `decode`; a narrower LEN leaves the
bits [15:LEN_W] reserved, so that a word with one of them set has reserved bits (log 9). -/
def decodeFor (p : Config.Params) (w : Word) : Except DecodeError Instr :=
  match decode w with
  | .error e => .error e
  | .ok i => if i.lenFits p.lenW then .ok i else .error .reservedBits

/-- The MODE bit of a mode: 0 ASCII, 1 RTU (30_encoding.md R88). -/
def Mode.bit : Mode → Bool
  | .ascii => false
  | .rtu => true

/-- The 32-bit word OPC[31:28] RSV[27:18] IDLE_EN[17] MODE[16] LEN[15:0] (30_encoding.md R80). -/
def commandWord (opc : BitVec 4) (idle mode : Bool) (len : Half) : Word :=
  opc ++ 0#10 ++ BitVec.ofBool idle ++ BitVec.ofBool mode ++ len

/-- The word of an instruction (30_encoding.md R80, R81). A length that does not fit LEN is cut to its low 16
bits; a well-formed instruction has none. -/
def encode : Instr → Word
  | .init m idle => commandWord 0x0#4 idle m.bit 0#16
  | .requestWrite n => commandWord 0x1#4 false false (BitVec.ofNat 16 n)
  | .answerRead n => commandWord 0x2#4 false false (BitVec.ofNat 16 n)

/-- The word of `nbits` bits that stands in `w`, every bit above `nbits` 0. A number with a bit set above bit 31
is no command word, since every command is exactly one 32-bit word (30_encoding.md R87). -/
def tableWord (nbits w : Nat) : Option Word :=
  if w % 2 ^ nbits < 2 ^ 32 then some (BitVec.ofNat 32 (w % 2 ^ nbits)) else none

/-- The instruction the decoder reads from a word of the opcode table. -/
def decodeTableWord (nbits w : Nat) : Option Instr :=
  match tableWord nbits w with
  | some v =>
    match decode v with
    | .ok i => some i
    | .error _ => none
  | none => none

end Sys2Proof
end

