-- ==== Sys2Proof/Machine/Checksum.lean ====
section
/-! DEFINITION. The checksum generators LRCG and CRCG (40_checksums.md R110-R120; log 16 for the CRC's bit order). -/

namespace Sys2Proof.Machine

/-- LRC_ACC after the bytes of `p`: the 8-bit sum, carries discarded (40_checksums.md R112). -/
def lrcAccumulate (p : List Byte) : Byte := p.foldl (fun acc b => acc + b) 0x00#8

/-- `LRC(p)`: the two's complement of the accumulator (40_checksums.md R112). -/
def lrc (p : List Byte) : Byte := ~~~ (lrcAccumulate p) + 1#8

/-- One shift of CRC_REG (40_checksums.md R116). -/
def crcBit (c : Half) : Half := if c.getLsbD 0 then (c >>> 1) ^^^ 0xA001#16 else c >>> 1

/-- `k` shifts of CRC_REG. -/
def crcShift : Nat → Half → Half
  | 0, c => c
  | k + 1, c => crcShift k (crcBit c)

/-- CRC_REG after one more byte: the byte into the low end, then 8 shifts (40_checksums.md R116). -/
def crcByte (c : Half) (b : Byte) : Half := crcShift 8 (c ^^^ b.setWidth 16)

/-- CRC_REG after the bytes of `p`, started from `c`. -/
def crcFrom (c : Half) (p : List Byte) : Half := p.foldl crcByte c

/-- `CRC16(p)`: initial register 0xFFFF, no final XOR (40_checksums.md R115, R116). -/
def crc16 (p : List Byte) : Half := crcFrom 0xFFFF#16 p

end Sys2Proof.Machine
end

