-- ==== Sys2Proof/Machine/Verdict.lean ====
section
/-! DEFINITION. What a frame decoder answers (42_ascii_codec.md R165, 43_rtu_codec.md R194). -/

namespace Sys2Proof.Machine

/-- The verdict of a decoder, with the payload when it is Ok: "The verdict is the only output the caller uses,
together with q when it is Ok" (42_ascii_codec.md R171). -/
inductive Verdict where
  | ok (q : List Byte)
  | bad
deriving DecidableEq, Repr

end Sys2Proof.Machine
end

