-- ==== Sys2Proof/Machine/AsciiCodec.lean ====
section
/-! DEFINITION. The ASCII frame encoder AENC and decoder ADEC (30_encoding.md R92-R94, 42_ascii_codec.md
R160-R173). -/

namespace Sys2Proof.Machine

/-- `:` (30_encoding.md R92). -/
def colon : Byte := 0x3A#8
/-- CR (30_encoding.md R92). -/
def cr : Byte := 0x0D#8
/-- LF (30_encoding.md R92). -/
def lf : Byte := 0x0A#8

/-- `hexdigit(v)` (30_encoding.md R94). -/
def hexDigit (v : BitVec 4) : Byte :=
  if v ≤ 9#4 then 0x30#8 + v.setWidth 8 else 0x41#8 + (v.setWidth 8 - 10#8)

/-- `[hexdigit(b[7:4]), hexdigit(b[3:0])]`: high nibble first, uppercase (42_ascii_codec.md R161, R162). -/
def hexPair (b : Byte) : List Byte := [hexDigit (b.extractLsb' 4 4), hexDigit (b.extractLsb' 0 4)]

/-- The hex digits of a payload, in index order (30_encoding.md R92). -/
def hexPairs : List Byte → List Byte
  | [] => []
  | b :: p => hexPair b ++ hexPairs p

/-- `AsciiEncode(p)` (42_ascii_codec.md R161). -/
def asciiEncode (p : List Byte) : List Byte := [colon] ++ hexPairs p ++ hexPair (lrc p) ++ [cr, lf]

/-- `hexval(c)`: the nibble of a valid hex digit, none for every other byte, lowercase included
(42_ascii_codec.md R168). -/
def hexVal (c : Byte) : Option (BitVec 4) :=
  if 0x30#8 ≤ c ∧ c ≤ 0x39#8 then some ((c - 0x30#8).setWidth 4)
  else if 0x41#8 ≤ c ∧ c ≤ 0x46#8 then some ((c - 0x37#8).setWidth 4)
  else none

/-- `pair(c1, c2)`: the byte, and whether HEX_ERR is set (42_ascii_codec.md R169). -/
def hexByte (sentinel c1 c2 : Byte) : Byte × Bool :=
  match hexVal c1, hexVal c2 with
  | some h, some l => (h ++ l, false)
  | some _, none => (sentinel, true)
  | none, some _ => (sentinel, true)
  | none, none => (sentinel, true)

/-- The bytes of the first `n` digit pairs, and whether one of them sets HEX_ERR: decoding goes on after an
invalid digit (42_ascii_codec.md R169). A missing character, which no frame of the length of R165 has, is an
invalid digit. -/
def hexBytes (sentinel : Byte) : Nat → List Byte → List Byte × Bool
  | 0, _ => ([], false)
  | n + 1, c1 :: c2 :: f =>
    ((hexByte sentinel c1 c2).1 :: (hexBytes sentinel n f).1, (hexByte sentinel c1 c2).2 || (hexBytes sentinel n f).2)
  | _ + 1, [_] => ([], true)
  | _ + 1, [] => ([], true)

/-- The framing check: `f[0]`, `f[2n+3]` and `f[2n+4]` are `:`, CR and LF (42_ascii_codec.md R167). -/
def asciiFramed (f : List Byte) (n : Nat) : Bool :=
  f[0]? == some colon && f[2 * n + 3]? == some cr && f[2 * n + 4]? == some lf

/-- `q`, the decoded payload of a framed `f` (42_ascii_codec.md R171). -/
def asciiPayload (sentinel : Byte) (f : List Byte) (n : Nat) : List Byte := (hexBytes sentinel n (f.drop 1)).1

/-- `rx`, the received LRC, as the list of its one byte (42_ascii_codec.md R170). -/
def asciiReceivedLrc (sentinel : Byte) (f : List Byte) (n : Nat) : List Byte :=
  (hexBytes sentinel 1 (f.drop (2 * n + 1))).1

/-- HEX_ERR after all pairs, those of the payload and that of the LRC (42_ascii_codec.md R169-R171). -/
def asciiHexErr (sentinel : Byte) (f : List Byte) (n : Nat) : Bool :=
  (hexBytes sentinel n (f.drop 1)).2 || (hexBytes sentinel 1 (f.drop (2 * n + 1))).2

/-- `AsciiDecode(f, n)` (42_ascii_codec.md R171). -/
def asciiDecode (sentinel : Byte) (f : List Byte) (n : Nat) : Verdict :=
  if asciiFramed f n then
    if asciiHexErr sentinel f n = false ∧ asciiReceivedLrc sentinel f n = [lrc (asciiPayload sentinel f n)] then
      .ok (asciiPayload sentinel f n)
    else .bad
  else .bad

end Sys2Proof.Machine
end

