-- ==== Sys2Proof/Machine/State.lean ====
section
/-! DEFINITION. The state of the block as plain data (10_state.md R20, R44), the inputs of its outside agents,
the reasons a step stops, and the state after reset (10_state.md R42). -/

namespace Sys2Proof.Machine

/-- PBUF or WB: the cells that hold a value, as (index, byte), indices strictly rising. An index that is not
listed holds no value (10_state.md R43). -/
abbrev Memory := List Host.Cell

/-- The canonical form of a `Memory`: strictly rising indices. An unlisted cell reads as no value, which no
entry can hold, so equal buffers are equal lists. -/
abbrev Memory.wf (m : Memory) : Prop := m.Pairwise (fun c d => c.1 < d.1)

/-- The Protocol Results STATUS.RESULT codes (30_encoding.md R89). -/
inductive ProtocolResult where
  | success
  | noBufferSpace
  | timeout
  | corrupted
  | ioError
deriving DecidableEq, Repr

/-- The Callback Results of the transport port (30_encoding.md R90). -/
inductive CallbackResult where
  | success
  | timeout
  | ioError
deriving DecidableEq, Repr

/-- What STATUS.FAULT_CODE codes (30_encoding.md R91): the causes are 60_exceptions.md R216's. -/
inductive FaultCode where
  /-- Code 0: no fault since reset. -/
  | none
  /-- Code 1: REQUEST_WRITE or ANSWER_READ while INIT_DONE = 0. -/
  | notInitialized
  /-- Code 2: INIT while INIT_DONE = 1. -/
  | reinitialize
  /-- Code 3: a decodable command while PHASE is not READY. -/
  | cmdWhileBusy
  /-- Code 4: OPC 0x3-0xF. -/
  | reservedOpcode
  /-- Code 5: a defined OPC with a must-be-zero bit set. -/
  | reservedBits
  /-- Code 6: INIT with MODE = 1, IDLE_EN = 0. -/
  | rtuWithoutIdle
  /-- Code 7: host write to PBUF while BUSY = 1. -/
  | pbufWriteWhileBusy
  /-- Code 8: a transport answer that breaks its contract. -/
  | transportViolation
  /-- Code 9: host access to a reserved offset. -/
  | reservedAddress
  /-- Code 10: wrong width or alignment, or a write to STATUS. -/
  | badAccess
deriving DecidableEq, Repr

/-- The sequencer register PHASE (10_state.md R37). -/
inductive Phase where
  | ready
  | waitWrite
  | waitIdle
  | waitRead
deriving DecidableEq, Repr

/-- An outstanding transport call: TCALL when it is not `None` (10_state.md R39, 20_memory.md R61-R63). -/
inductive TransportCall where
  /-- `Write(bytes, n, t)`. -/
  | write (bytes : List Byte) (n t : Nat)
  /-- `Read(n, t)`. -/
  | read (n t : Nat)
  /-- `Idle(n)`. -/
  | idle (n : Nat)
deriving DecidableEq, Repr

/-- What the transport agent answers (20_memory.md R61-R63). A result is the number on the port, so that one
outside the three Callback Results can be said (20_memory.md R66, 30_encoding.md R90). -/
inductive TransportAnswer where
  /-- An answer to a write: its result. -/
  | write (cb : Nat)
  /-- An answer to a read: its result, and the bytes received. -/
  | read (cb : Nat) (bytes : List Byte)
  /-- `Done`, the answer to an idle call. -/
  | idle
deriving DecidableEq, Repr

/-- A host access to the register space: a byte offset in 0x000-0x1FF and a width in bits (20_memory.md R51,
R68; log 13). -/
inductive HostAccess where
  | write (offset : BitVec 9) (width : Nat) (data : Word)
  | read (offset : BitVec 9) (width : Nat)
deriving DecidableEq, Repr

/-- One action of an outside agent (00_scope.md R13, 70_reset_and_hazards.md R240). -/
inductive Input where
  | host (a : HostAccess)
  | transport (a : TransportAnswer)
  | reset
deriving DecidableEq, Repr

/-- The reasons for which a step stops with a fault: NONE. Every fault of the spec is recorded in STATUS (or in
`m1`) and the machine goes on, "Later commands are still accepted and executed normally" (60_exceptions.md R215),
so each is a next state (log 18). -/
inductive Fault where
deriving DecidableEq, Repr

/-- The reasons for which the model gives no meaning (60_exceptions.md R221). -/
inductive Refusal where
  /-- An instruction with no meaning yet, by its mnemonic. Raised by an arm of `exec`; no arm raises it now. Safe. -/
  | notModelled (mnemonic : String)
  /-- `BadParameters`: the parameters violate 00_scope.md R9. The first `step` of such a state sets the mark
  `refused`; raised by every `step` after it (log 10). Safe. -/
  | badParameters
  /-- A reset arrived while BUSY and set the mark `refused` (70_reset_and_hazards.md R240). Raised by every `step`
  after it (log 10). Safe. -/
  | resetWhileBusy
deriving DecidableEq, Repr

/-- The state of the block. `params`, `inputs`, `readData` and `draws` are the model's own; the rest is the
spec's (10_state.md R20, R44). -/
@[ext]
structure State where
  /-- The implementation parameters (00_scope.md R8); no step writes them. -/
  params : Config.Params
  /-- STATUS.RESULT (10_state.md R24). -/
  result : ProtocolResult
  /-- PHASE (10_state.md R37). -/
  phase : Phase
  /-- CFG.INIT_DONE (10_state.md R26). -/
  initDone : Bool
  /-- CFG.MODE (10_state.md R27). -/
  mode : Mode
  /-- CFG.IDLE_EN (10_state.md R28). -/
  idleEn : Bool
  /-- STATUS.FAULT (10_state.md R29). -/
  fault : Bool
  /-- STATUS.FAULT_CODE (10_state.md R30). -/
  faultCode : FaultCode
  /-- PBUF (20_memory.md R52). -/
  pbuf : Memory
  /-- WB (20_memory.md R56). -/
  wb : Memory
  /-- CUR_OP (10_state.md R38). -/
  curOp : BitVec 2
  /-- CUR_N (10_state.md R38). -/
  curN : Half
  /-- CUR_FLEN (10_state.md R38). -/
  curFlen : BitVec 18
  /-- TCALL (10_state.md R39). -/
  tcall : Option TransportCall
  /-- LRC_ACC (10_state.md R35). -/
  lrcAcc : Byte
  /-- CRC_REG (10_state.md R35). -/
  crcReg : Half
  /-- HEX_ERR (10_state.md R35). -/
  hexErr : Bool
  /-- The model fault M1 UNWRITTEN_PAYLOAD has been recorded (10_state.md R44, 60_exceptions.md R217). -/
  m1 : Bool
  /-- The mark of a refusal (10_state.md R44, 60_exceptions.md R221). -/
  refused : Bool
  /-- The outside agents' actions still to come, oldest first: the one total order of 20_memory.md R72 (log 1). -/
  inputs : List Input
  /-- What the latest host read returned (log 8). -/
  readData : Word
  /-- How many free values have been drawn (log 6). -/
  draws : Nat
deriving DecidableEq, Repr

/-- The block right after reset (10_state.md R42, R44). The values of CUR_OP, CUR_N, CUR_FLEN (log 3), LRC_ACC,
CRC_REG, HEX_ERR (log 4), and of the model's own fields (logs 1, 6, 8, 9) are the model's choice. -/
def State.reset : State where
  params := Config.defaults
  result := .success
  phase := .ready
  initDone := false
  mode := .ascii
  idleEn := false
  fault := false
  faultCode := .none
  pbuf := []
  wb := []
  curOp := 0#2
  curN := 0#16
  curFlen := 0#18
  tcall := none
  lrcAcc := 0#8
  crcReg := 0#16
  hexErr := false
  m1 := false
  refused := false
  inputs := []
  readData := 0#32
  draws := 0

end Sys2Proof.Machine
end

