-- ==== Sys2Proof/Machine/Flags.lean ====
section
/-! DEFINITION. The numeric codes of results and faults (30_encoding.md R89-R91), the STATUS word
(10_state.md R23-R31) and the translation of a Callback Result (41_commands.md R139). -/

namespace Sys2Proof.Machine

/-- The 3-bit code of a Protocol Result (30_encoding.md R89). -/
def ProtocolResult.code : ProtocolResult → BitVec 3
  | .success => 0#3
  | .noBufferSpace => 1#3
  | .timeout => 2#3
  | .corrupted => 3#3
  | .ioError => 4#3

/-- The 4-bit code of a fault (30_encoding.md R91). -/
def FaultCode.code : FaultCode → BitVec 4
  | .none => 0#4
  | .notInitialized => 1#4
  | .reinitialize => 2#4
  | .cmdWhileBusy => 3#4
  | .reservedOpcode => 4#4
  | .reservedBits => 5#4
  | .rtuWithoutIdle => 6#4
  | .pbufWriteWhileBusy => 7#4
  | .transportViolation => 8#4
  | .reservedAddress => 9#4
  | .badAccess => 10#4

/-- The Callback Result a number on the transport port codes, if it is one (30_encoding.md R90). -/
def CallbackResult.ofCode : Nat → Option CallbackResult
  | 0 => some .success
  | 1 => some .timeout
  | 2 => some .ioError
  | _ => none

/-- `map_cb` (41_commands.md R139). -/
def mapCb : CallbackResult → ProtocolResult
  | .success => .success
  | .timeout => .timeout
  | .ioError => .ioError

/-- STATUS.BUSY: 1 exactly when PHASE is not READY (10_state.md R25). -/
def State.busy (s : State) : Bool :=
  match s.phase with
  | .ready => false
  | .waitWrite => true
  | .waitIdle => true
  | .waitRead => true

/-- The STATUS word, from bit 31 down: reserved[31:12] FAULT_CODE[11:8] FAULT[7] IDLE_EN[6] MODE[5]
INIT_DONE[4] BUSY[3] RESULT[2:0] (10_state.md R23, R31). -/
def State.statusWord (s : State) : Word :=
  0#20 ++ s.faultCode.code ++ BitVec.ofBool s.fault ++ BitVec.ofBool s.idleEn ++ BitVec.ofBool s.mode.bit
    ++ BitVec.ofBool s.initDone ++ BitVec.ofBool s.busy ++ s.result.code

end Sys2Proof.Machine
end

