-- ==== Sys2Proof/Machine/Operands.lean ====
section
/-! DEFINITION. The operands of the commands: cells of PBUF and WB, the payload snapshot, the frame length, and
the targets of host accesses (20_memory.md R51-R57, 41_commands.md R137). -/

namespace Sys2Proof.Machine

/-- The byte a cell holds, if it holds a value (10_state.md R43). -/
def Memory.read : Memory → Nat → Option Byte
  | [], _ => none
  | (k, b) :: m, a => if k = a then some b else Memory.read m a

/-- The buffer with one byte written, in canonical form. -/
def Memory.write : Memory → Nat → Byte → Memory
  | [], a, v => [(a, v)]
  | (k, b) :: m, a, v =>
    if a < k then (a, v) :: (k, b) :: m
    else if a = k then (a, v) :: m
    else (k, b) :: Memory.write m a v

/-- `MemWrite(m, a, len(s), s)`: the bytes of `s` at `a`, `a+1`, … (20_memory.md R54, R57). -/
def Memory.store : Memory → Nat → List Byte → Memory
  | m, _, [] => m
  | m, a, b :: s => Memory.store (Memory.write m a b) (a + 1) s

/-- `m[a..a+n) <- no value` (41_commands.md R144). -/
def Memory.eraseRange : Memory → Nat → Nat → Memory
  | [], _, _ => []
  | (k, b) :: m, a, n =>
    if a ≤ k ∧ k < a + n then Memory.eraseRange m a n else (k, b) :: Memory.eraseRange m a n

/-- The bytes that the cells `a`, …, `a+n-1` hold, in index order: `WB[0..n)` where every cell holds one, as
20_memory.md R57 assures of what is read. -/
def Memory.bytes : Memory → Nat → Nat → List Byte
  | _, _, 0 => []
  | m, a, n + 1 =>
    match Memory.read m a with
    | some b => b :: Memory.bytes m (a + 1) n
    | none => Memory.bytes m (a + 1) n

/-- `MemRead(PBUF, a, n)` (20_memory.md R53), with the free bytes from the `k`-th draw on in the place of the
cells that hold no value: "The hardware transmits whatever the RAM holds" (10_state.md R43, log 5). -/
def Memory.snapshot : Memory → Nat → Nat → Nat → List Byte
  | _, _, 0, _ => []
  | m, a, n + 1, k =>
    match Memory.read m a with
    | some b => b :: Memory.snapshot m (a + 1) n k
    | none => Config.freeByte k :: Memory.snapshot m (a + 1) n (k + 1)

/-- How many of the cells `a`, …, `a+n-1` hold no value: fault M1 is due when it is not 0 (20_memory.md R53). -/
def Memory.missing : Memory → Nat → Nat → Nat
  | _, _, 0 => 0
  | m, a, n + 1 =>
    match Memory.read m a with
    | some _ => Memory.missing m (a + 1) n
    | none => Memory.missing m (a + 1) n + 1

/-- `flen(mode, n)`, exact, without wrap (41_commands.md R137). -/
def flen : Mode → Nat → Nat
  | .ascii, n => 2 * n + 5
  | .rtu, n => n + 2

/-- What a host access's byte offset names (20_memory.md R51). -/
inductive Target where
  /-- 0x000-0x003. -/
  | cmd
  /-- 0x004-0x007. -/
  | status
  /-- A reserved offset. -/
  | reserved
  /-- `PBUF[i]`. -/
  | pbuf (i : Nat)
deriving DecidableEq, Repr

/-- The register or cell at a byte offset (20_memory.md R51): the access's own offset decides (log 11). -/
def target (pbufCap : Nat) (offset : BitVec 9) : Target :=
  if offset.toNat < 0x004 then .cmd
  else if offset.toNat < 0x008 then .status
  else if 0x100 ≤ offset.toNat ∧ offset.toNat < 0x100 + pbufCap then .pbuf (offset.toNat - 0x100)
  else .reserved

end Sys2Proof.Machine
end

