-- ==== Sys2Proof/Machine/RtuCodec.lean ====
section
/-! DEFINITION. The RTU frame encoder RENC and decoder RDEC (30_encoding.md R95, R96, 43_rtu_codec.md
R190-R197). -/

namespace Sys2Proof.Machine

/-- `[c[7:0], c[15:8]]`: low byte first (40_checksums.md R117). -/
def crcBytes (c : Half) : List Byte := [c.extractLsb' 0 8, c.extractLsb' 8 8]

/-- `RtuEncode(p)` (43_rtu_codec.md R191). -/
def rtuEncode (p : List Byte) : List Byte := p ++ crcBytes (crc16 p)

/-- `rx[n] | (rx[n+1] << 8)` of the received bytes from index `n` on, if there are two (40_checksums.md R117). -/
def receivedCrc : List Byte → Option Half
  | lo :: hi :: _ => some (lo.setWidth 16 ||| (hi.setWidth 16 <<< 8))
  | [_] => none
  | [] => none

/-- `RtuDecode(f, n)` (43_rtu_codec.md R195). -/
def rtuDecode (f : List Byte) (n : Nat) : Verdict :=
  if receivedCrc (f.drop n) = some (crc16 (f.take n)) then .ok (f.take n) else .bad

end Sys2Proof.Machine
end

