-- ==== Sys2Proof/Machine/Ops.lean ====
section
/-! DEFINITION. The named operations the commands, the host accesses and the transport answers are made of:
recording a fault (60_exceptions.md R215), ending a command (41_commands.md R132), the transport calls
(20_memory.md R61-R63), the buffers, the codec selected by CFG.MODE. -/

namespace Sys2Proof.Machine

/-- `raise Fault(k)`: the first code is kept, FAULT is set, nothing else changes (60_exceptions.md R215, R222).
The block has no trap entry and no return from one (60_exceptions.md R222, R223): this is all that taking a
fault does. -/
def State.raiseFault (k : FaultCode) (s : State) : State :=
  { s with faultCode := if s.fault then s.faultCode else k, fault := true }

/-- `finish(res)` (41_commands.md R132). -/
def State.finish (res : ProtocolResult) (s : State) : State := { s with result := res, phase := .ready }

/-- INIT's effect (41_commands.md R133). -/
def State.configure (mode : Mode) (idle : Bool) (s : State) : State :=
  { s with mode := mode, idleEn := idle, initDone := true }

/-- `CUR_OP <- op; CUR_N <- n; CUR_FLEN <- fl` (10_state.md R38; log 19). -/
def State.latch (op : BitVec 2) (n fl : Nat) (s : State) : State :=
  { s with curOp := op, curN := BitVec.ofNat 16 n, curFlen := BitVec.ofNat 18 fl }

/-- Issue a transport call: TCALL and PHASE (20_memory.md R61-R63). -/
def State.issue (c : TransportCall) (ph : Phase) (s : State) : State := { s with tcall := some c, phase := ph }

/-- `TCALL <- None`: the outstanding call has been answered (20_memory.md R61-R63). -/
def State.closeCall (s : State) : State := { s with tcall := none }

/-- `WB[0..len(f)) <- f` (20_memory.md R57). -/
def State.stageFrame (f : List Byte) (s : State) : State := { s with wb := Memory.store s.wb 0 f }

/-- WB at the end of a call: "not retained across calls" (20_memory.md R56, R58; log 15). -/
def State.dropFrame (s : State) : State := { s with wb := [] }

/-- `MemWrite(PBUF, 0, len(q), q)` (20_memory.md R54). -/
def State.deliver (q : List Byte) (s : State) : State := { s with pbuf := Memory.store s.pbuf 0 q }

/-- `PBUF[0..n) <- no value` (41_commands.md R144). -/
def State.invalidate (n : Nat) (s : State) : State := { s with pbuf := Memory.eraseRange s.pbuf 0 n }

/-- One host byte written to PBUF (20_memory.md R52). -/
def State.writePbuf (i : Nat) (b : Byte) (s : State) : State := { s with pbuf := Memory.write s.pbuf i b }

/-- The word a host read returns (20_memory.md R51, R69; log 8). -/
def State.respond (d : Word) (s : State) : State := { s with readData := d }

/-- `k` free values have been drawn (log 6). -/
def State.draw (k : Nat) (s : State) : State := { s with draws := s.draws + k }

/-- Record M1 UNWRITTEN_PAYLOAD in the model's own fault set, never in STATUS, if it is due (60_exceptions.md
R217). -/
def State.recordM1 (due : Bool) (s : State) : State := { s with m1 := s.m1 || due }

/-- The mark of a refusal (60_exceptions.md R221). -/
def State.markRefused (s : State) : State := { s with refused := true }

/-- The inputs still to come. -/
def State.withInputs (is : List Input) (s : State) : State := { s with inputs := is }

/-- The payload snapshot `p <- MemRead(PBUF, 0, n)` of a REQUEST_WRITE (20_memory.md R53, R72). -/
def State.payload (n : Nat) (s : State) : List Byte := Memory.snapshot s.pbuf 0 n s.draws

/-- What reading the snapshot leaves: M1 if a cell holds no value, and one draw for each such cell
(20_memory.md R53, log 5). -/
def State.afterSnapshot (n : Nat) (s : State) : State :=
  (s.recordM1 (decide (Memory.missing s.pbuf 0 n ≠ 0))).draw (Memory.missing s.pbuf 0 n)

/-- The encoder that CFG.MODE selects (41_commands.md R135). -/
def encodeFrame : Mode → List Byte → List Byte
  | .ascii, p => asciiEncode p
  | .rtu, p => rtuEncode p

/-- What encoding `p` leaves in the datapath registers: LRC_ACC of the LRCG (40_checksums.md R112) or CRC_REG of
the CRCG (40_checksums.md R116), log 4. -/
def State.afterEncode (p : List Byte) (s : State) : State :=
  match s.mode with
  | .ascii => { s with lrcAcc := lrcAccumulate p }
  | .rtu => { s with crcReg := crc16 p }

/-- The decoder that CFG.MODE selects (41_commands.md R142, R143). -/
def decodeFrame (sentinel : Byte) : Mode → List Byte → Nat → Verdict
  | .ascii, f, n => asciiDecode sentinel f n
  | .rtu, f, n => rtuDecode f n

/-- What decoding `f` leaves in the datapath registers: HEX_ERR and LRC_ACC once the framing check has passed
(42_ascii_codec.md R171), or CRC_REG (43_rtu_codec.md R195), log 4. -/
def State.afterDecode (f : List Byte) (n : Nat) (s : State) : State :=
  match s.mode with
  | .ascii =>
    if asciiFramed f n then
      { s with
        hexErr := asciiHexErr s.params.hexSentinel f n
        lrcAcc := lrcAccumulate (asciiPayload s.params.hexSentinel f n) }
    else s
  | .rtu => { s with crcReg := crc16 (f.take n) }

/-- The platform's reset of a block that is READY: every piece of the block's state to its value of
10_state.md R42. What is the platform's or the model's own stays (log 17). -/
def State.resetBlock (s : State) : State :=
  { State.reset with params := s.params, inputs := s.inputs, readData := s.readData, draws := s.draws }

end Sys2Proof.Machine
end

