-- ==== Sys2Proof/Machine/Commands.lean ====
section
/-! DEFINITION. The three commands: acceptance and the path up to the first transport call or `finish`
(41_commands.md R130-R143). The path after a transport call is Machine/Transport.lean's. -/

namespace Sys2Proof.Machine

/-- The acceptance checks of INIT after decoding, in order: 3, 2, 6 (41_commands.md R131). -/
def State.initFault (mode : Mode) (idle : Bool) (s : State) : Option FaultCode :=
  if s.busy then some .cmdWhileBusy
  else if s.initDone then some .reinitialize
  else if mode = .rtu ∧ idle = false then some .rtuWithoutIdle
  else none

/-- The acceptance checks of REQUEST_WRITE and ANSWER_READ after decoding, in order: 3, 1 (41_commands.md R131). -/
def State.transferFault (s : State) : Option FaultCode :=
  if s.busy then some .cmdWhileBusy
  else if s.initDone = false then some .notInitialized
  else none

/-- INIT (41_commands.md R133). -/
def execInit (mode : Mode) (idle : Bool) (s : State) : Host.Outcome State Fault Refusal :=
  match s.initFault mode idle with
  | some k => .next (s.raiseFault k)
  | none => .next (s.configure mode idle)

/-- REQUEST_WRITE's frame, once its length is known to fit: snapshot, latch, encode, stage, `TWrite`
(41_commands.md R135, R140, R141). -/
def State.sendFrame (n : Nat) (s : State) : State :=
  let p := s.payload n
  let t := (((s.afterSnapshot n).latch 1#2 n (flen s.mode n)).afterEncode p).stageFrame (encodeFrame s.mode p)
  t.issue (.write (Memory.bytes t.wb 0 (flen s.mode n)) (flen s.mode n) s.params.busTimeoutMs) .waitWrite

/-- REQUEST_WRITE (41_commands.md R135). -/
def execRequestWrite (n : Nat) (s : State) : Host.Outcome State Fault Refusal :=
  match s.transferFault with
  | some k => .next (s.raiseFault k)
  | none =>
    if s.params.wbCap < flen s.mode n then .next (s.finish .noBufferSpace)
    else .next (s.sendFrame n)

/-- ANSWER_READ's read, once its frame length is known to fit: latch, `TRead` (41_commands.md R136, R142, R143). -/
def State.awaitFrame (n : Nat) (s : State) : State :=
  (s.latch 2#2 n (flen s.mode n)).issue (.read (flen s.mode n) s.params.busTimeoutMs) .waitRead

/-- ANSWER_READ (41_commands.md R136). -/
def execAnswerRead (n : Nat) (s : State) : Host.Outcome State Fault Refusal :=
  match s.transferFault with
  | some k => .next (s.raiseFault k)
  | none =>
    if s.params.wbCap < flen s.mode n then .next (s.finish .noBufferSpace)
    else .next (s.awaitFrame n)

end Sys2Proof.Machine
end

