-- ==== Sys2Proof/Machine/Dispatch.lean ====
section
/-! DEFINITION. One arm per command (30_encoding.md R81). -/

namespace Sys2Proof.Machine

def exec (i : Instr) (s : State) : Host.Outcome State Fault Refusal :=
  match i with
  | .init mode idle => Sys2Proof.Machine.execInit mode idle s
  | .requestWrite n => Sys2Proof.Machine.execRequestWrite n s
  | .answerRead n => Sys2Proof.Machine.execAnswerRead n s

end Sys2Proof.Machine
end

