-- ==== Sys2Proof/Machine/Transport.lean ====
section
/-! DEFINITION. The steps a transport answer makes: the rest of a command's path (41_commands.md R139-R144), and
the contract an answer can break (20_memory.md R66). -/

namespace Sys2Proof.Machine

/-- The end of a command in an answer step: WB goes (20_memory.md R56), then `finish` (41_commands.md R132). -/
def State.endCall (res : ProtocolResult) (s : State) : State := s.dropFrame.finish res

/-- A write answered with `cb`: in RTU mode a success issues `TIdle(CUR_FLEN)`, everything else finishes
(41_commands.md R140, R141). -/
def State.writeAnswered (cb : CallbackResult) (s : State) : State :=
  match s.mode, cb with
  | .rtu, .success => s.closeCall.issue (.idle s.curFlen.toNat) .waitIdle
  | .rtu, .timeout => s.closeCall.endCall .timeout
  | .rtu, .ioError => s.closeCall.endCall .ioError
  | .ascii, cb => s.closeCall.endCall (mapCb cb)

/-- The idle call returned (41_commands.md R141). -/
def State.idleAnswered (s : State) : State := s.closeCall.endCall .success

/-- PBUF and RESULT after a verdict on an `n`-byte payload (41_commands.md R142-R144). -/
def State.conclude (n : Nat) (v : Verdict) (s : State) : State :=
  match v with
  | .ok q => (s.deliver q).endCall .success
  | .bad => (s.invalidate n).endCall .corrupted

/-- A frame `r` received: staged in WB, then `WB[0..CUR_FLEN)` decoded for a payload of CUR_N bytes
(41_commands.md R142, R143). -/
def State.frameReceived (r : List Byte) (s : State) : State :=
  let t := s.closeCall.stageFrame r
  let f := Memory.bytes t.wb 0 s.curFlen.toNat
  (t.afterDecode f s.curN.toNat).conclude s.curN.toNat (decodeFrame s.params.hexSentinel s.mode f s.curN.toNat)

/-- A read answered with a result that is not Success: "without further processing" (41_commands.md R142, R143). -/
def State.readFailed (cb : CallbackResult) (s : State) : State := s.closeCall.endCall (mapCb cb)

/-- The step a transport answer makes. An answer that fits no outstanding call, the wrong kind of answer, a
successful read of another byte count than asked, and a result outside the three Callback Results are
TRANSPORT_VIOLATION: the answer is discarded and TCALL unchanged (20_memory.md R66). The bytes beside a read
result that is not Success are not looked at (log 14). -/
def State.transportAnswer (a : TransportAnswer) (s : State) : State :=
  match s.tcall, a with
  | some (.write _ _ _), .write cb =>
    match CallbackResult.ofCode cb with
    | some r => s.writeAnswered r
    | none => s.raiseFault .transportViolation
  | some (.read n _), .read cb bytes =>
    match CallbackResult.ofCode cb with
    | some .success => if bytes.length = n then s.frameReceived bytes else s.raiseFault .transportViolation
    | some .timeout => s.readFailed .timeout
    | some .ioError => s.readFailed .ioError
    | none => s.raiseFault .transportViolation
  | some (.idle _), .idle => s.idleAnswered
  | _, _ => s.raiseFault .transportViolation

end Sys2Proof.Machine
end

