-- ==== Sys2Proof/Machine/HostPort.lean ====
section
/-! DEFINITION. The steps of the outside agents' inputs: host accesses to the register space
(20_memory.md R51-R55, R68), the acceptance of a command word (41_commands.md R130, R131), transport answers and
reset (70_reset_and_hazards.md R240). -/

namespace Sys2Proof.Machine

/-- The fault of a word that decodes to no command (30_encoding.md R85). -/
def faultOfDecodeError : DecodeError → FaultCode
  | .reservedOpcode => .reservedOpcode
  | .reservedBits => .reservedBits

/-- The acceptance step: a host write of `w` to CMD (41_commands.md R130, R131). -/
def acceptWord (w : Word) (s : State) : Host.Outcome State Fault Refusal :=
  match decodeFor s.params w with
  | .error e => .next (s.raiseFault (faultOfDecodeError e))
  | .ok i => exec i s

/-- A write to PBUF of a wrong width: BAD_ACCESS (20_memory.md R68), or, while BUSY, when
PBUF_WRITE_WHILE_BUSY (20_memory.md R55) applies as well, one of the two (60_exceptions.md R218 gives no order
between them; log 12). -/
def State.badPbufWrite (s : State) : State :=
  if s.busy then
    (s.raiseFault (if Config.freeChoice s.draws then .pbufWriteWhileBusy else .badAccess)).draw 1
  else s.raiseFault .badAccess

/-- A host write (20_memory.md R51, R55, R68). -/
def hostWrite (offset : BitVec 9) (width : Nat) (data : Word) (s : State) : Host.Outcome State Fault Refusal :=
  match target s.params.pbufCap offset with
  | .reserved => .next (s.raiseFault .reservedAddress)
  | .cmd => if offset = 0x000#9 ∧ width = 32 then acceptWord data s else .next (s.raiseFault .badAccess)
  | .status => .next (s.raiseFault .badAccess)
  | .pbuf i =>
    if width = 8 then
      if s.busy then .next (s.raiseFault .pbufWriteWhileBusy)
      else .next (s.writePbuf i (data.setWidth 8))
    else .next s.badPbufWrite

/-- A host read of `PBUF[i]`: any byte while BUSY; else the byte of the cell, or for a cell with no value any
byte, and M1 recorded (20_memory.md R55, 10_state.md R43; logs 5, 7). -/
def State.readPbuf (i : Nat) (s : State) : State :=
  if s.busy then (s.respond ((Config.freeByte s.draws).setWidth 32)).draw 1
  else
    match Memory.read s.pbuf i with
    | some b => s.respond (b.setWidth 32)
    | none => ((s.respond ((Config.freeByte s.draws).setWidth 32)).recordM1 true).draw 1

/-- A host read that faults returns 0 (60_exceptions.md R215). -/
def State.faultRead (k : FaultCode) (s : State) : State := (s.raiseFault k).respond 0#32

/-- A host read (20_memory.md R51, R55, R68; 10_state.md R22, R23). DESIGN CHOICE (log 21): a read of PBUF of a wrong
width while BUSY, of which R55 says that it is no fault and R68 that it is fault 10, is fault 10 and reads 0. -/
def hostRead (offset : BitVec 9) (width : Nat) (s : State) : State :=
  match target s.params.pbufCap offset with
  | .reserved => s.faultRead .reservedAddress
  | .cmd => if offset = 0x000#9 ∧ width = 32 then s.respond 0#32 else s.faultRead .badAccess
  | .status => if offset = 0x004#9 ∧ width = 32 then s.respond s.statusWord else s.faultRead .badAccess
  | .pbuf i => if width = 8 then s.readPbuf i else s.faultRead .badAccess

/-- RESET: refused while BUSY (70_reset_and_hazards.md R240, 60_exceptions.md R221; log 10). -/
def State.takeReset (s : State) : State := if s.busy then s.markRefused else s.resetBlock

/-- The step one input makes. -/
def takeInput (e : Input) (s : State) : Host.Outcome State Fault Refusal :=
  match e with
  | .host (.write offset width data) => hostWrite offset width data s
  | .host (.read offset width) => .next (hostRead offset width s)
  | .transport a => .next (s.transportAnswer a)
  | .reset => .next s.takeReset

/-- The host access that submits a command word (10_state.md R22). -/
def submitWord (w : Word) : Input := .host (.write 0x000#9 32 w)

end Sys2Proof.Machine
end

