-- ==== Sys2Proof/Machine/Step.lean ====
section
/-! DEFINITION. The step of the machine: one input of the one total order of events (20_memory.md R72), or
waiting when there is none (20_memory.md R65, 70_reset_and_hazards.md R241). -/

namespace Sys2Proof.Machine

/-- One step. A state that carries the mark of a refusal is refused. Parameters that violate 00_scope.md R9 set the
mark, so that every later step is refused (60_exceptions.md R221; log 10). -/
def step (s : State) : Host.Outcome State Fault Refusal :=
  if s.refused then .refused (if s.params.Ok then .resetWhileBusy else .badParameters)
  else if ¬ s.params.Ok then .next s.markRefused
  else
    match s.inputs with
    | [] => .next s
    | e :: rest => takeInput e (s.withInputs rest)

/-- `s` with the host's write of this command word to CMD as the very next input (log 2). -/
def State.withFetchWord (s : State) (nbits w : Nat) : State :=
  s.withInputs (submitWord (BitVec.ofNat 32 (w % 2 ^ nbits)) :: s.inputs)

end Sys2Proof.Machine
end

