-- ==== Sys2Proof/Safety.lean ====
section
/-! DEFINITION. What a safe run is (60_exceptions.md R231), what the host and the transport must do for one
(20_memory.md R61-R66, 70_reset_and_hazards.md R242-R251), and the invariant of the reachable states. -/

namespace Sys2Proof.Machine

/-- No fault is recorded, M1 included, nothing was refused, and the parameters are none that will be: the premise of
every claim (60_exceptions.md R231, R221). -/
def State.clean (s : State) : Bool := !s.fault && !s.m1 && !s.refused && decide s.params.Ok

/-- The answer keeps the call's contract (20_memory.md R61-R63): the right kind, one of the three Callback
Results, and for a successful read exactly the bytes asked for. -/
def TransportCall.accepts : TransportCall → TransportAnswer → Bool
  | .write _ _ _, .write cb => (CallbackResult.ofCode cb).isSome
  | .read n _, .read cb bytes => (CallbackResult.ofCode cb).isSome && (cb != 0 || bytes.length == n)
  | .idle _, .idle => true
  | .write _ _ _, .read _ _ => false
  | .write _ _ _, .idle => false
  | .read _ _, .write _ => false
  | .read _ _, .idle => false
  | .idle _, .write _ => false
  | .idle _, .read _ _ => false

/-- The host may submit this command now: one command at a time (70_reset_and_hazards.md R244), INIT once and
first (R246), RTU only with the idle capability (R242), and a payload that has been written, if its frame fits
(R243). -/
def mayBeSubmitted (i : Instr) (s : State) : Bool :=
  match i with
  | .init m idle => !s.busy && !s.initDone && (m == .ascii || idle)
  | .requestWrite n =>
    !s.busy && s.initDone && (decide (s.params.wbCap < flen s.mode n) || Memory.missing s.pbuf 0 n == 0)
  | .answerRead _ => !s.busy && s.initDone

/-- The word is a command the host may submit now (30_encoding.md R85). -/
def wordMayBeSubmitted (w : Word) (s : State) : Bool :=
  match decodeFor s.params w with
  | .ok i => mayBeSubmitted i s
  | .error _ => false

/-- A host write that keeps to the register map and the hazards (20_memory.md R51, R55, R68,
70_reset_and_hazards.md R245). -/
def hostWriteAllowed (offset : BitVec 9) (width : Nat) (data : Word) (s : State) : Bool :=
  match target s.params.pbufCap offset with
  | .cmd => offset == 0x000#9 && width == 32 && wordMayBeSubmitted data s
  | .pbuf _ => width == 8 && !s.busy
  | .status => false
  | .reserved => false

/-- A host read that keeps to the register map; of PBUF, while BUSY or of a cell with a value (20_memory.md R51,
R55, R68, 10_state.md R43). -/
def hostReadAllowed (offset : BitVec 9) (width : Nat) (s : State) : Bool :=
  match target s.params.pbufCap offset with
  | .cmd => offset == 0x000#9 && width == 32
  | .status => offset == 0x004#9 && width == 32
  | .pbuf i => width == 8 && (s.busy || (Memory.read s.pbuf i).isSome)
  | .reserved => false

/-- The outside agent keeps its duties with this input in this state. -/
def Input.obeys (e : Input) (s : State) : Bool :=
  match e with
  | .host (.write offset width data) => hostWriteAllowed offset width data s
  | .host (.read offset width) => hostReadAllowed offset width s
  | .transport a =>
    match s.tcall with
    | some c => c.accepts a
    | none => false
  | .reset => !s.busy

/-- The latched operands belong together: CUR_FLEN is the frame length of CUR_N and fits WB (10_state.md R38,
41_commands.md R137). -/
def State.LatchOk (s : State) : Prop :=
  s.curFlen.toNat = flen s.mode s.curN.toNat ∧ s.curFlen.toNat ≤ s.params.wbCap

/-- What PHASE says of TCALL, the latches and WB (10_state.md R37-R39, 20_memory.md R56, R57). -/
def State.PhaseOk (s : State) : Prop :=
  match s.phase with
  | .ready => s.tcall = none ∧ s.wb = []
  | .waitWrite =>
    s.LatchOk ∧ s.curOp = 1#2 ∧
      s.tcall = some (.write (Memory.bytes s.wb 0 s.curFlen.toNat) s.curFlen.toNat s.params.busTimeoutMs) ∧
      (Memory.bytes s.wb 0 s.curFlen.toNat).length = s.curFlen.toNat
  | .waitIdle => s.LatchOk ∧ s.curOp = 1#2 ∧ s.mode = .rtu ∧ s.tcall = some (.idle s.curFlen.toNat)
  | .waitRead =>
    s.LatchOk ∧ s.curOp = 2#2 ∧ s.wb = [] ∧ s.tcall = some (.read s.curFlen.toNat s.params.busTimeoutMs)

/-- The invariant of the machine: what holds at reset and every step keeps. -/
structure State.Inv (s : State) : Prop where
  /-- The parameters satisfy 00_scope.md R9. -/
  paramsOk : s.params.Ok
  /-- PBUF is in canonical form and inside PBUF_CAP (20_memory.md R52). -/
  pbufWf : Memory.wf s.pbuf
  pbufBound : ∀ c ∈ s.pbuf, c.1 < s.params.pbufCap
  /-- WB is in canonical form and inside WB_CAP (20_memory.md R56, R57). -/
  wbWf : Memory.wf s.wb
  wbBound : ∀ c ∈ s.wb, c.1 < s.params.wbCap
  /-- FAULT is set exactly when FAULT_CODE is not NONE (10_state.md R29, R30). -/
  faultCoded : s.fault = false ↔ s.faultCode = .none
  /-- Before INIT the block is ASCII, READY, without the idle capability (10_state.md R42,
  70_reset_and_hazards.md R241). -/
  uninitialised : s.initDone = false → s.mode = .ascii ∧ s.idleEn = false ∧ s.phase = .ready
  /-- RTU mode has the idle capability (41_commands.md R131). -/
  rtuHasIdle : s.mode = .rtu → s.idleEn = true
  /-- PHASE, TCALL, the latches and WB agree. -/
  phaseOk : s.PhaseOk

end Sys2Proof.Machine
end

