-- ==== Sys2Proof/Certificates/Slice0/Obligations.lean ====
section
/-! DEFINITION. The statements for the provers. -/

open Sys2Proof Sys2Proof.Machine

/-! ## Encoding -/

/-- Decoding the word of a well-formed instruction gives the instruction, every operand at every value. -/
def Obligations.DecodeEncodeRoundTrip : Prop :=
  ∀ i : Instr, i.WellFormed → decode (encode i) = .ok i

/-- A word that decodes is the word of the instruction it decodes to: no bit of a command word is ignored. -/
def Obligations.EncodeDecodeRoundTrip : Prop :=
  ∀ (w : Word) (i : Instr), decode w = .ok i → i.WellFormed ∧ encode i = w

/-- 30_encoding.md R82, R84, R85, R86: which words are which command, and which reserved encoding. -/
def Obligations.DecodeClassifiesEveryWord : Prop :=
  ∀ w : Word,
    (∀ m b, decode w = .ok (.init m b) ↔
      w &&& 0xFFFCFFFF#32 = 0x00000000#32 ∧ (m = .rtu ↔ w.getLsbD 16 = true) ∧ b = w.getLsbD 17) ∧
    (∀ n, decode w = .ok (.requestWrite n) ↔
      w &&& 0xFFFF0000#32 = 0x10000000#32 ∧ n = (w.extractLsb' 0 16).toNat) ∧
    (∀ n, decode w = .ok (.answerRead n) ↔
      w &&& 0xFFFF0000#32 = 0x20000000#32 ∧ n = (w.extractLsb' 0 16).toNat) ∧
    (decode w = .error .reservedOpcode ↔ 3 ≤ (w.extractLsb' 28 4).toNat) ∧
    (decode w = .error .reservedBits ↔
      (w.extractLsb' 28 4 = 0#4 ∧ w &&& 0xFFFCFFFF#32 ≠ 0#32) ∨
      ((w.extractLsb' 28 4 = 1#4 ∨ w.extractLsb' 28 4 = 2#4) ∧ w &&& 0x0FFF0000#32 ≠ 0#32))

/-- The command words of 30_encoding.md R98 decode to the commands they stand for. -/
def Obligations.SampleCommandWordsDecode : Prop :=
  decode 0x00000000#32 = .ok (.init .ascii false) ∧
  decode 0x00020000#32 = .ok (.init .ascii true) ∧
  decode 0x00030000#32 = .ok (.init .rtu true) ∧
  decode 0x00010000#32 = .ok (.init .rtu false) ∧
  decode 0x10000006#32 = .ok (.requestWrite 6) ∧
  decode 0x1000FFFF#32 = .ok (.requestWrite 65535) ∧
  decode 0x20000007#32 = .ok (.answerRead 7)

/-! ## The acceptance step -/

/-- When the next input submits a word that decodes to `i`, the step is `exec i` of the state with that input
consumed: with the hardware's LEN_W of 16 always, with a narrower one where the length fits. That inputs are a list in
State is the model's form (log 1), and that a length too long for a narrower LEN_W is fault 5 is the model's choice
(log 9). -/
def Obligations.StepRunsTheDecodedCommand : Prop :=
  ∀ (s : State) (w : Word) (rest : List Input) (i : Instr), s.params.Ok → s.refused = false →
    s.inputs = .host (.write 0x000#9 32 w) :: rest → decode w = .ok i →
    (s.params.lenW = 16 ∨ (∀ n, i = .requestWrite n ∨ i = .answerRead n → n < 2 ^ s.params.lenW) →
      step s = exec i { s with inputs := rest }) ∧
    (∀ n, i = .requestWrite n ∨ i = .answerRead n → 2 ^ s.params.lenW ≤ n →
      step s = .next { s with
        inputs := rest, fault := true, faultCode := if s.fault then s.faultCode else .reservedBits })

/-- 41_commands.md R131: the acceptance checks, in their order, and nothing else faults at acceptance. A length always
fits the hardware's LEN_W of 16; one that does not fit a narrower LEN_W is StepRunsTheDecodedCommand's (log 9). -/
def Obligations.AcceptanceChecksInOrder : Prop :=
  ∀ (w : Word) (s : State),
    (decode w = .error .reservedOpcode → acceptWord w s = .next (s.raiseFault .reservedOpcode)) ∧
    (decode w = .error .reservedBits → acceptWord w s = .next (s.raiseFault .reservedBits)) ∧
    ∀ i, decode w = .ok i →
      s.params.lenW = 16 ∨ (∀ n, i = .requestWrite n ∨ i = .answerRead n → n < 2 ^ s.params.lenW) →
      (s.phase ≠ .ready → acceptWord w s = .next (s.raiseFault .cmdWhileBusy)) ∧
      (s.phase = .ready → ∀ m b, i = .init m b → s.initDone = true →
        acceptWord w s = .next (s.raiseFault .reinitialize)) ∧
      (s.phase = .ready → s.initDone = false → i = .init .rtu false →
        acceptWord w s = .next (s.raiseFault .rtuWithoutIdle)) ∧
      (s.phase = .ready → s.initDone = false → (∀ m b, i ≠ .init m b) →
        acceptWord w s = .next (s.raiseFault .notInitialized)) ∧
      (s.phase = .ready →
        ((s.initDone = false ∧ ∃ m b, i = .init m b ∧ i ≠ .init .rtu false) ∨
          (s.initDone = true ∧ ∀ m b, i ≠ .init m b)) →
        ∃ t, acceptWord w s = .next t ∧ t.fault = s.fault ∧ t.faultCode = s.faultCode)

/-- 30_encoding.md R85: a reserved encoding is recorded as a fault, by its opcode field and its must-be-zero bits, and
the command is not executed. -/
def Obligations.ReservedEncodingIsAFault : Prop :=
  ∀ (w : Word) (s : State),
    (3 ≤ (w.extractLsb' 28 4).toNat →
      acceptWord w s =
        .next { s with fault := true, faultCode := if s.fault then s.faultCode else .reservedOpcode }) ∧
    ((w.extractLsb' 28 4 = 0#4 ∧ w &&& 0x0FFCFFFF#32 ≠ 0#32) ∨
        ((w.extractLsb' 28 4 = 1#4 ∨ w.extractLsb' 28 4 = 2#4) ∧ w &&& 0x0FFF0000#32 ≠ 0#32) →
      acceptWord w s =
        .next { s with fault := true, faultCode := if s.fault then s.faultCode else .reservedBits })

/-! ## The commands -/

/-- 41_commands.md R133: INIT stores the tuple; PHASE, RESULT and everything else stay. -/
def Obligations.InitStoresTheParameters : Prop :=
  ∀ (m : Mode) (b : Bool) (s : State), s.phase = .ready → s.initDone = false → (m = .rtu → b = true) →
    exec (.init m b) s = .next { s with mode := m, idleEn := b, initDone := true }

/-- 41_commands.md R138: a frame longer than WB gives NoBufferSpace at once; no transport call, no PBUF byte, no WB
byte, PHASE stays READY. -/
def Obligations.OversizeFrameGivesNoBufferSpace : Prop :=
  ∀ (n : Nat) (s : State), s.phase = .ready → s.initDone = true → s.params.wbCap < flen s.mode n →
    exec (.requestWrite n) s = .next { s with result := .noBufferSpace } ∧
    exec (.answerRead n) s = .next { s with result := .noBufferSpace }

/-- 41_commands.md R135, R140: REQUEST_WRITE in ASCII mode with a written payload issues one transport write of
`AsciiEncode(p)`, and all else is as the rule says. What LRC_ACC keeps is log 4's, the model's. -/
def Obligations.RequestWriteAsciiIssuesTheFrame : Prop :=
  ∀ (s : State) (p : List Byte), s.phase = .ready → s.initDone = true → s.mode = .ascii →
    2 * p.length + 5 ≤ s.params.wbCap → (∀ i, i < p.length → Memory.read s.pbuf i = p[i]?) →
    exec (.requestWrite p.length) s =
      .next { s with
        curOp := 1#2, curN := BitVec.ofNat 16 p.length, curFlen := BitVec.ofNat 18 (2 * p.length + 5)
        lrcAcc := lrcAccumulate p
        wb := Memory.store s.wb 0 (asciiEncode p)
        tcall := some (.write (asciiEncode p) (2 * p.length + 5) s.params.busTimeoutMs)
        phase := .waitWrite }

/-- 41_commands.md R135, R141: the same in RTU mode, with `RtuEncode(p)`. What CRC_REG keeps is log 4's, the model's.
-/
def Obligations.RequestWriteRtuIssuesTheFrame : Prop :=
  ∀ (s : State) (p : List Byte), s.phase = .ready → s.initDone = true → s.mode = .rtu →
    p.length + 2 ≤ s.params.wbCap → (∀ i, i < p.length → Memory.read s.pbuf i = p[i]?) →
    exec (.requestWrite p.length) s =
      .next { s with
        curOp := 1#2, curN := BitVec.ofNat 16 p.length, curFlen := BitVec.ofNat 18 (p.length + 2)
        crcReg := crc16 p
        wb := Memory.store s.wb 0 (rtuEncode p)
        tcall := some (.write (rtuEncode p) (p.length + 2) s.params.busTimeoutMs)
        phase := .waitWrite }

/-- A payload cell without a value: the command still runs, with a free byte in that cell's place, STATUS.FAULT is not
set, and M1 is recorded (60_exceptions.md R217; that the command runs on is the model's choice, log 5). -/
def Obligations.UnwrittenPayloadRunsAndRecordsM1 : Prop :=
  ∀ (n : Nat) (s : State), s.phase = .ready → s.initDone = true → flen s.mode n ≤ s.params.wbCap →
    (∃ i, i < n ∧ Memory.read s.pbuf i = none) →
    ∃ t p, exec (.requestWrite n) s = .next t ∧ p.length = n ∧
      (∀ i b, i < n → Memory.read s.pbuf i = some b → p[i]? = some b) ∧
      t.tcall = some (.write (encodeFrame s.mode p) (flen s.mode n) s.params.busTimeoutMs) ∧
      t.phase = .waitWrite ∧ t.m1 = true ∧ t.fault = s.fault ∧ t.faultCode = s.faultCode ∧ t.pbuf = s.pbuf

/-- 41_commands.md R136: ANSWER_READ latches its operands and issues one transport read of the frame length. -/
def Obligations.AnswerReadIssuesTheRead : Prop :=
  ∀ (n : Nat) (s : State), s.phase = .ready → s.initDone = true → flen s.mode n ≤ s.params.wbCap →
    exec (.answerRead n) s =
      .next { s with
        curOp := 2#2, curN := BitVec.ofNat 16 n, curFlen := BitVec.ofNat 18 (flen s.mode n)
        tcall := some (.read (flen s.mode n) s.params.busTimeoutMs)
        phase := .waitRead }

/-- The frame of the three commands: what acceptance leaves unchanged, whatever it answers. WB is written only by
REQUEST_WRITE, in WB[0..flen). What LRC_ACC, CRC_REG and HEX_ERR hold between uses is log 4's, the model's. -/
def Obligations.CommandsLeaveTheRestUnchanged : Prop :=
  ∀ (i : Instr) (s t : State), exec i s = .next t →
    t.params = s.params ∧ t.refused = s.refused ∧ t.inputs = s.inputs ∧ t.readData = s.readData ∧
    t.hexErr = s.hexErr ∧ (∀ a, Memory.read t.pbuf a = Memory.read s.pbuf a) ∧
    (t.result = s.result ∨ t.result = .noBufferSpace) ∧
    (∀ m b, i = .init m b →
      t.result = s.result ∧ t.phase = s.phase ∧ t.tcall = s.tcall ∧ t.curOp = s.curOp ∧ t.curN = s.curN ∧
      t.curFlen = s.curFlen ∧ t.lrcAcc = s.lrcAcc ∧ t.crcReg = s.crcReg ∧ t.m1 = s.m1 ∧ t.draws = s.draws ∧
      ∀ a, Memory.read t.wb a = Memory.read s.wb a) ∧
    (∀ n, i = .requestWrite n →
      t.initDone = s.initDone ∧ t.mode = s.mode ∧ t.idleEn = s.idleEn ∧
      (s.mode = .ascii → t.crcReg = s.crcReg) ∧ (s.mode = .rtu → t.lrcAcc = s.lrcAcc) ∧
      ∀ a, flen s.mode n ≤ a → Memory.read t.wb a = Memory.read s.wb a) ∧
    (∀ n, i = .answerRead n →
      t.initDone = s.initDone ∧ t.mode = s.mode ∧ t.idleEn = s.idleEn ∧ t.lrcAcc = s.lrcAcc ∧ t.crcReg = s.crcReg ∧
      t.m1 = s.m1 ∧ t.draws = s.draws ∧ ∀ a, Memory.read t.wb a = Memory.read s.wb a)

/-- The largest payload that fits a wire buffer of 256 bytes: 125 bytes in ASCII, 254 in RTU (41_commands.md R135
(b)-(d)), and the frame length never wraps: every LEN above them is NoBufferSpace. -/
def Obligations.LargestPayloads : Prop :=
  ∀ (n : Nat) (s : State), s.phase = .ready → s.initDone = true → s.params = Config.defaults →
    ((s.mode = .ascii → 126 ≤ n) ∧ (s.mode = .rtu → 255 ≤ n) →
      exec (.requestWrite n) s = .next { s with result := .noBufferSpace }) ∧
    ((s.mode = .ascii → n ≤ 125) ∧ (s.mode = .rtu → n ≤ 254) →
      ∃ t, exec (.requestWrite n) s = .next t ∧ t.phase = .waitWrite ∧ t.result = s.result)

/-! ## The transport -/

/-- 41_commands.md R140: the answer to an ASCII write finishes the command with the translated result. That WB then
holds nothing is log 15's, the model's. -/
def Obligations.AsciiWriteAnswerFinishes : Prop :=
  ∀ (s : State) (rest : List Input) (bs : List Byte) (n t cb : Nat),
    s.params.Ok → s.refused = false → s.inputs = .transport (.write cb) :: rest → s.mode = .ascii →
    s.tcall = some (.write bs n t) → cb < 3 →
    step s = .next { s with
      inputs := rest, tcall := none, wb := [], phase := .ready
      result := if cb = 0 then .success else if cb = 1 then .timeout else .ioError }

/-- 41_commands.md R141, 43_rtu_codec.md R193: a successful RTU write is followed by the idle call with the length of
the frame, a failed one finishes, and the idle answer finishes with Success. That WB then holds nothing is log 15's,
the model's. -/
def Obligations.RtuWriteIsFollowedByIdle : Prop :=
  ∀ (s : State) (rest : List Input), s.params.Ok → s.refused = false → s.mode = .rtu →
    (∀ bs n t, s.tcall = some (.write bs n t) → s.inputs = .transport (.write 0) :: rest →
      step s = .next { s with inputs := rest, tcall := some (.idle s.curFlen.toNat), phase := .waitIdle }) ∧
    (∀ bs n t, s.tcall = some (.write bs n t) → s.inputs = .transport (.write 1) :: rest →
      step s = .next { s with inputs := rest, tcall := none, wb := [], result := .timeout, phase := .ready }) ∧
    (∀ bs n t, s.tcall = some (.write bs n t) → s.inputs = .transport (.write 2) :: rest →
      step s = .next { s with inputs := rest, tcall := none, wb := [], result := .ioError, phase := .ready }) ∧
    (∀ n, s.tcall = some (.idle n) → s.inputs = .transport .idle :: rest →
      step s = .next { s with inputs := rest, tcall := none, wb := [], result := .success, phase := .ready })

/-- 60_exceptions.md R213: a write or read answered Timeout or IoError ends the command at once with that result, with
no decoding, no idle call and PBUF unchanged. That WB then holds nothing and that bytes beside a failed read's result
do not matter are logs 15's and 14's, the model's. -/
def Obligations.TransportFailureEndsTheCommand : Prop :=
  ∀ (s : State) (rest : List Input) (c : TransportCall) (cb : Nat) (a : TransportAnswer),
    s.params.Ok → s.refused = false → s.inputs = .transport a :: rest → s.tcall = some c →
    cb = 1 ∨ cb = 2 →
    (a = .write cb ∧ ∃ bs n t, c = .write bs n t) ∨ (∃ bytes, a = .read cb bytes ∧ ∃ n t, c = .read n t) →
    step s = .next { s with
      inputs := rest, tcall := none, wb := [], phase := .ready
      result := if cb = 1 then .timeout else .ioError }

/-- 41_commands.md R142-R144: what a received frame does, in both modes, from every state of the invariant: Success
delivers the payload, Corrupted leaves PBUF[0..n) without a value, and PBUF[n..) is unchanged. -/
def Obligations.ReceivedFrameIsDecodedAndDelivered : Prop :=
  ∀ (s : State) (rest : List Input) (f : List Byte),
    s.Inv → s.refused = false → s.phase = .waitRead → s.inputs = .transport (.read 0 f) :: rest →
    f.length = s.curFlen.toNat →
    ∃ t, step s = .next t ∧ t.phase = .ready ∧ t.tcall = none ∧ t.inputs = rest ∧
      t.mode = s.mode ∧ t.idleEn = s.idleEn ∧ t.initDone = s.initDone ∧ t.fault = s.fault ∧
      t.faultCode = s.faultCode ∧ t.m1 = s.m1 ∧
      (∀ q, decodeFrame s.params.hexSentinel s.mode f s.curN.toNat = .ok q →
        t.result = .success ∧ q.length = s.curN.toNat ∧ ∀ a, a < s.curN.toNat → Memory.read t.pbuf a = q[a]?) ∧
      (decodeFrame s.params.hexSentinel s.mode f s.curN.toNat = .bad →
        t.result = .corrupted ∧ ∀ a, a < s.curN.toNat → Memory.read t.pbuf a = none) ∧
      ∀ a, s.curN.toNat ≤ a → Memory.read t.pbuf a = Memory.read s.pbuf a

/-- 20_memory.md R66: which answers break the contract, and that such an answer is discarded with the call still
outstanding. -/
def Obligations.TransportViolationIsDiscarded : Prop :=
  ∀ (s : State) (rest : List Input) (a : TransportAnswer),
    s.params.Ok → s.refused = false → s.inputs = .transport a :: rest →
    (s.tcall = none ∨
      (∃ bs n t, s.tcall = some (.write bs n t) ∧ ∀ cb, a = .write cb → 3 ≤ cb) ∨
      (∃ n t, s.tcall = some (.read n t) ∧ ∀ cb bytes, a = .read cb bytes → 3 ≤ cb ∨ cb = 0 ∧ bytes.length ≠ n) ∨
      (∃ n, s.tcall = some (.idle n) ∧ a ≠ .idle)) →
    step s = .next { s with
      inputs := rest, fault := true, faultCode := if s.fault then s.faultCode else .transportViolation }

/-- 20_memory.md R65: with no input the block takes no step of its own, BUSY or not. That such a step answers the same
state is the model's form (log 1). -/
def Obligations.NoInputNoChange : Prop :=
  ∀ s : State, s.params.Ok → s.refused = false → s.inputs = [] → step s = .next s

/-- 60_exceptions.md R230: from every state of the invariant, a transport that answers its calls by their contract
brings the command in flight to its end, in at most two answers, the second one an idle's. That a Timeout or IoError
read answer with bytes beside it keeps the contract and ends the command is log 14's, the model's choice. -/
def Obligations.CommandEndsIfTransportAnswers : Prop :=
  ∀ (s : State) (rest : List Input) (c : TransportCall) (a : TransportAnswer),
    s.Inv → s.refused = false → s.tcall = some c → c.accepts a = true → s.inputs = .transport a :: rest →
    ∃ t, step s = .next t ∧ t.inputs = rest ∧
      (t.phase = .ready ∨
        (s.phase = .waitWrite ∧ t.phase = .waitIdle ∧
          ∃ u, step { t with inputs := .transport .idle :: rest } = .next u ∧ u.phase = .ready ∧
            u.result = .success ∧ u.inputs = rest))

/-! ## The checksum generators -/

/-- 40_checksums.md R111: the LRC is the two's complement of the byte sum. -/
def Obligations.LrcIsTheNegatedByteSum : Prop :=
  ∀ p : List Byte, (lrc p).toNat = (256 - (p.map BitVec.toNat).sum % 256) % 256

/-- 40_checksums.md R113: the LRC's corner cases and laws. -/
def Obligations.LrcLaws : Prop :=
  lrc [] = 0x00#8 ∧ lrc [0x80#8, 0x80#8] = 0x00#8 ∧ lrc [0x01#8] = 0xFF#8 ∧ lrc [0xFF#8] = 0x01#8 ∧
  lrc [0x11#8, 0x03#8, 0x00#8, 0x00#8, 0x00#8, 0x01#8] = 0xEB#8 ∧
  (∀ p : List Byte, (p.map BitVec.toNat).sum % 256 = 0 → lrc p = 0x00#8) ∧
  (∀ p : List Byte, ((p.map BitVec.toNat).sum + (lrc p).toNat) % 256 = 0) ∧
  (∀ p q : List Byte, p.Perm q → lrc p = lrc q) ∧
  (∀ (p : List Byte) (i : Nat) (b : Byte), p[i]? ≠ none → p[i]? ≠ some b → lrc (p.set i b) ≠ lrc p)

/-- 40_checksums.md R118 (a)-(c): the CRC of nothing, a CRC of 0, and the residue of a whole frame. -/
def Obligations.CrcResidueIsZero : Prop :=
  crc16 [] = 0xFFFF#16 ∧ crc16 [0xFF#8, 0xFF#8] = 0x0000#16 ∧
  ∀ p : List Byte, crc16 (p ++ [(crc16 p).extractLsb' 0 8, (crc16 p).extractLsb' 8 8]) = 0x0000#16

/-- 40_checksums.md R115: with input and output reflected, CRC16 is the shift register of the normal-form polynomial
0x8005 started at 0xFFFF, most significant bit first, with no final XOR. -/
def Obligations.CrcIsTheReflectedNormalForm : Prop :=
  ∀ p : List Byte,
    (crc16 p).reverse =
      (p.flatMap fun b => (List.range 8).map b.getLsbD).foldl
        (fun (c : Half) (bit : Bool) =>
          if c.msb ^^ bit then (c <<< 1) ^^^ 0x8005#16 else c <<< 1)
        0xFFFF#16

/-- 40_checksums.md R115's check value and the examples of R118. -/
def Obligations.CrcStandardCheckValue : Prop :=
  crc16 [0x31#8, 0x32#8, 0x33#8, 0x34#8, 0x35#8, 0x36#8, 0x37#8, 0x38#8, 0x39#8] = 0x4B37#16 ∧
  crc16 [0x01#8, 0x03#8, 0x00#8, 0x00#8, 0x00#8, 0x01#8] = 0x0A84#16 ∧
  crc16 [0x11#8, 0x03#8, 0x00#8, 0x00#8, 0x00#8, 0x01#8] = 0x9A86#16

/-! ## The codecs -/

/-- 30_encoding.md R92-R94: the ASCII frame, byte by byte. -/
def Obligations.AsciiFrameLayout : Prop :=
  (∀ v : BitVec 4, (hexDigit v).toNat = if v.toNat ≤ 9 then 0x30 + v.toNat else 0x41 + (v.toNat - 10)) ∧
  ∀ p : List Byte,
    (asciiEncode p).length = 2 * p.length + 5 ∧
    (asciiEncode p)[0]? = some 0x3A#8 ∧
    (∀ i b, p[i]? = some b →
      (asciiEncode p)[1 + 2 * i]? = some (hexDigit (b.extractLsb' 4 4)) ∧
      (asciiEncode p)[2 + 2 * i]? = some (hexDigit (b.extractLsb' 0 4))) ∧
    (asciiEncode p)[2 * p.length + 1]? = some (hexDigit ((lrc p).extractLsb' 4 4)) ∧
    (asciiEncode p)[2 * p.length + 2]? = some (hexDigit ((lrc p).extractLsb' 0 4)) ∧
    (asciiEncode p)[2 * p.length + 3]? = some 0x0D#8 ∧
    (asciiEncode p)[2 * p.length + 4]? = some 0x0A#8

/-- 42_ascii_codec.md R161, R162: between the start byte and the CR there are only the 16 uppercase digits, so no raw
`:`, CR or LF. -/
def Obligations.AsciiFrameHoldsOnlyUppercaseDigits : Prop :=
  ∀ (p : List Byte) (i : Nat) (c : Byte), 1 ≤ i → i < 2 * p.length + 3 → (asciiEncode p)[i]? = some c →
    (0x30#8 ≤ c ∧ c ≤ 0x39#8) ∨ (0x41#8 ≤ c ∧ c ≤ 0x46#8)

/-- 42_ascii_codec.md R167-R171: of the frames of the right length, the ASCII decoder accepts exactly those the
encoder emits, and answers their payload. -/
def Obligations.AsciiDecoderAcceptsExactlyEncodedFrames : Prop :=
  ∀ (sentinel : Byte) (f q : List Byte) (n : Nat), f.length = 2 * n + 5 →
    (asciiDecode sentinel f n = .ok q ↔ q.length = n ∧ f = asciiEncode q)

/-- 42_ascii_codec.md R174. -/
def Obligations.AsciiRoundTrip : Prop :=
  ∀ (sentinel : Byte) (p : List Byte), asciiDecode sentinel (asciiEncode p) p.length = .ok p

/-- 42_ascii_codec.md R175: every single-bit flip of an ASCII frame is detected. -/
def Obligations.AsciiDetectsEverySingleBitFlip : Prop :=
  ∀ (sentinel : Byte) (p : List Byte) (k j : Nat) (c : Byte), j < 8 → (asciiEncode p)[k]? = some c →
    asciiDecode sentinel ((asciiEncode p).set k (c ^^^ (1#8 <<< j))) p.length = .bad

/-- 42_ascii_codec.md R172: the verdict, and with it PBUF and RESULT, does not depend on HEX_SENTINEL, whatever the
frame. -/
def Obligations.SentinelIsUnobservable : Prop :=
  ∀ (x y : Byte) (f : List Byte) (n : Nat), asciiDecode x f n = asciiDecode y f n

/-- 30_encoding.md R95, R96: the RTU frame, byte by byte. The frame of no bytes is R96's, which the spec derives. -/
def Obligations.RtuFrameLayout : Prop :=
  rtuEncode [] = [0xFF#8, 0xFF#8] ∧
  ∀ p : List Byte,
    (rtuEncode p).length = p.length + 2 ∧
    (∀ i, i < p.length → (rtuEncode p)[i]? = p[i]?) ∧
    (rtuEncode p)[p.length]? = some ((crc16 p).extractLsb' 0 8) ∧
    (rtuEncode p)[p.length + 1]? = some ((crc16 p).extractLsb' 8 8)

/-- 43_rtu_codec.md R195, R198: of the frames of the right length, the RTU decoder accepts exactly those the encoder
emits, and answers their payload. -/
def Obligations.RtuDecoderAcceptsExactlyEncodedFrames : Prop :=
  ∀ (f q : List Byte) (n : Nat), f.length = n + 2 →
    (rtuDecode f n = .ok q ↔ q.length = n ∧ f = rtuEncode q)

/-- 43_rtu_codec.md R199: every single-bit flip of an RTU frame is detected. -/
def Obligations.RtuDetectsEverySingleBitFlip : Prop :=
  ∀ (p : List Byte) (k j : Nat) (c : Byte), j < 8 → (rtuEncode p)[k]? = some c →
    rtuDecode ((rtuEncode p).set k (c ^^^ (1#8 <<< j))) p.length = .bad

/-! ## The host's registers -/

/-- 10_state.md R23-R31: the fields of the STATUS word, with the codes of 30_encoding.md R89 and R91 written out. -/
def Obligations.StatusWordFields : Prop :=
  ∀ s : State,
    (s.result = .success → s.statusWord.extractLsb' 0 3 = 0#3) ∧
    (s.result = .noBufferSpace → s.statusWord.extractLsb' 0 3 = 1#3) ∧
    (s.result = .timeout → s.statusWord.extractLsb' 0 3 = 2#3) ∧
    (s.result = .corrupted → s.statusWord.extractLsb' 0 3 = 3#3) ∧
    (s.result = .ioError → s.statusWord.extractLsb' 0 3 = 4#3) ∧
    (s.statusWord.getLsbD 3 = true ↔ s.phase ≠ .ready) ∧
    s.statusWord.getLsbD 4 = s.initDone ∧
    (s.statusWord.getLsbD 5 = true ↔ s.mode = .rtu) ∧
    s.statusWord.getLsbD 6 = s.idleEn ∧
    s.statusWord.getLsbD 7 = s.fault ∧
    (s.faultCode = .none → s.statusWord.extractLsb' 8 4 = 0#4) ∧
    (s.faultCode = .notInitialized → s.statusWord.extractLsb' 8 4 = 1#4) ∧
    (s.faultCode = .reinitialize → s.statusWord.extractLsb' 8 4 = 2#4) ∧
    (s.faultCode = .cmdWhileBusy → s.statusWord.extractLsb' 8 4 = 3#4) ∧
    (s.faultCode = .reservedOpcode → s.statusWord.extractLsb' 8 4 = 4#4) ∧
    (s.faultCode = .reservedBits → s.statusWord.extractLsb' 8 4 = 5#4) ∧
    (s.faultCode = .rtuWithoutIdle → s.statusWord.extractLsb' 8 4 = 6#4) ∧
    (s.faultCode = .pbufWriteWhileBusy → s.statusWord.extractLsb' 8 4 = 7#4) ∧
    (s.faultCode = .transportViolation → s.statusWord.extractLsb' 8 4 = 8#4) ∧
    (s.faultCode = .reservedAddress → s.statusWord.extractLsb' 8 4 = 9#4) ∧
    (s.faultCode = .badAccess → s.statusWord.extractLsb' 8 4 = 10#4) ∧
    s.statusWord.extractLsb' 12 20 = 0#20

/-- 10_state.md R22, R23: an aligned 32-bit read of CMD returns 0, one of STATUS returns the STATUS word, and neither
has a side effect. The field `readData` for what a read returns is the model's (log 8). -/
def Obligations.RegisterReads : Prop :=
  ∀ (s : State) (rest : List Input), s.params.Ok → s.refused = false →
    (s.inputs = .host (.read 0x000#9 32) :: rest → step s = .next { s with inputs := rest, readData := 0#32 }) ∧
    (s.inputs = .host (.read 0x004#9 32) :: rest →
      step s = .next { s with inputs := rest, readData := s.statusWord })

/-- 20_memory.md R51: an access to a reserved offset is fault 9, whatever its width; it has no other effect, and a
read returns 0. That the access's own offset decides, whatever its width, is log 11's, and that the answer stands in
readData log 8's: the model's. -/
def Obligations.ReservedOffsetIsAFault : Prop :=
  ∀ (s : State) (rest : List Input) (offset : BitVec 9) (width : Nat) (data : Word), s.params.Ok → s.refused = false →
    (0x008 ≤ offset.toNat ∧ offset.toNat < 0x100) ∨ 0x100 + s.params.pbufCap ≤ offset.toNat →
    (s.inputs = .host (.write offset width data) :: rest →
      step s = .next { s with
        inputs := rest, fault := true, faultCode := if s.fault then s.faultCode else .reservedAddress }) ∧
    (s.inputs = .host (.read offset width) :: rest →
      step s = .next { s with
        inputs := rest, readData := 0#32
        fault := true, faultCode := if s.fault then s.faultCode else .reservedAddress })

/-- 20_memory.md R68, 10_state.md R23: a wrong width or alignment on a defined offset and every write to STATUS is
fault 10, without effect, and such a read returns 0. The model's choices: the access's own offset decides (log 11); a
wrong-width write to PBUF while BUSY is fault 7 or fault 10 (log 12); a wrong-width read of PBUF is fault 10 while
BUSY too (log 21); the answer stands in readData (log 8). -/
def Obligations.BadAccessIsAFault : Prop :=
  ∀ (s : State) (rest : List Input) (offset : BitVec 9) (width : Nat) (data : Word),
    s.params.Ok → s.refused = false →
    (((offset.toNat < 0x004 ∧ ¬ (offset = 0x000#9 ∧ width = 32)) ∨
        (0x004 ≤ offset.toNat ∧ offset.toNat < 0x008) ∨
        (0x100 ≤ offset.toNat ∧ offset.toNat < 0x100 + s.params.pbufCap ∧ width ≠ 8 ∧ s.phase = .ready)) →
      s.inputs = .host (.write offset width data) :: rest →
      step s = .next { s with
        inputs := rest, fault := true, faultCode := if s.fault then s.faultCode else .badAccess }) ∧
    (0x100 ≤ offset.toNat → offset.toNat < 0x100 + s.params.pbufCap → width ≠ 8 → s.phase ≠ .ready →
      s.inputs = .host (.write offset width data) :: rest →
      ∃ k, (k = .pbufWriteWhileBusy ∨ k = .badAccess) ∧
        step s = .next { s with
          inputs := rest, fault := true, faultCode := if s.fault then s.faultCode else k, draws := s.draws + 1 }) ∧
    (((offset.toNat < 0x004 ∧ ¬ (offset = 0x000#9 ∧ width = 32)) ∨
        (0x004 ≤ offset.toNat ∧ offset.toNat < 0x008 ∧ ¬ (offset = 0x004#9 ∧ width = 32)) ∨
        (0x100 ≤ offset.toNat ∧ offset.toNat < 0x100 + s.params.pbufCap ∧ width ≠ 8)) →
      s.inputs = .host (.read offset width) :: rest →
      step s = .next { s with
        inputs := rest, readData := 0#32
        fault := true, faultCode := if s.fault then s.faultCode else .badAccess })

/-- 20_memory.md R52: with BUSY = 0 an 8-bit write at 0x100+i sets PBUF[i] and no other cell, and an 8-bit read of a
cell with a value returns it. That an 8-bit write takes the low 8 of 32 data bits is log 13's, and that the byte read
stands zero-extended in readData log 8's: the model's choices. -/
def Obligations.HostAccessesPbufByteWise : Prop :=
  ∀ (s : State) (rest : List Input) (offset : BitVec 9) (data : Word), s.params.Ok → s.refused = false →
    s.phase = .ready → 0x100 ≤ offset.toNat → offset.toNat < 0x100 + s.params.pbufCap →
    (s.inputs = .host (.write offset 8 data) :: rest →
      ∃ m, step s = .next { s with inputs := rest, pbuf := m } ∧
        Memory.read m (offset.toNat - 0x100) = some (data.extractLsb' 0 8) ∧
        ∀ a, a ≠ offset.toNat - 0x100 → Memory.read m a = Memory.read s.pbuf a) ∧
    (∀ b, s.inputs = .host (.read offset 8) :: rest → Memory.read s.pbuf (offset.toNat - 0x100) = some b →
      step s = .next { s with inputs := rest, readData := b.setWidth 32 })

/-- 20_memory.md R55: while BUSY = 1 a write to PBUF is fault 7 and is discarded; a read returns some byte and is no
fault. That the byte is drawn by the counter `draws`, M1 is not recorded and the byte stands in readData are logs 6's,
7's and 8's, the model's. -/
def Obligations.PbufIsTheBlocksWhileBusy : Prop :=
  ∀ (s : State) (rest : List Input) (offset : BitVec 9) (data : Word), s.params.Ok → s.refused = false →
    s.phase ≠ .ready → 0x100 ≤ offset.toNat → offset.toNat < 0x100 + s.params.pbufCap →
    (s.inputs = .host (.write offset 8 data) :: rest →
      step s = .next { s with
        inputs := rest, fault := true, faultCode := if s.fault then s.faultCode else .pbufWriteWhileBusy }) ∧
    (s.inputs = .host (.read offset 8) :: rest →
      ∃ b : Byte, step s = .next { s with inputs := rest, readData := b.setWidth 32, draws := s.draws + 1 })

/-- 10_state.md R43, 60_exceptions.md R217: with BUSY = 0 a host read of a cell without a value records M1, never
STATUS.FAULT, and returns some byte. That the read goes on with a free byte is the model's choice (logs 5, 6, 8). -/
def Obligations.UnwrittenCellReadRecordsM1 : Prop :=
  ∀ (s : State) (rest : List Input) (offset : BitVec 9), s.params.Ok → s.refused = false →
    s.phase = .ready → 0x100 ≤ offset.toNat → offset.toNat < 0x100 + s.params.pbufCap →
    Memory.read s.pbuf (offset.toNat - 0x100) = none → s.inputs = .host (.read offset 8) :: rest →
    ∃ b : Byte, step s = .next { s with
      inputs := rest, readData := b.setWidth 32, m1 := true, draws := s.draws + 1 }

/-! ## Reset and parameters -/

/-- 10_state.md R42, R44: the state after reset, for the values the spec gives, and its STATUS word. -/
def Obligations.ResetState : Prop :=
  State.reset.result = .success ∧ State.reset.phase = .ready ∧ State.reset.initDone = false ∧
  State.reset.mode = .ascii ∧ State.reset.idleEn = false ∧ State.reset.fault = false ∧
  State.reset.faultCode = .none ∧ State.reset.tcall = none ∧
  (∀ a, Memory.read State.reset.pbuf a = none) ∧ (∀ a, Memory.read State.reset.wb a = none) ∧
  State.reset.m1 = false ∧ State.reset.refused = false ∧ State.reset.statusWord = 0x00000000#32

/-- 70_reset_and_hazards.md R240: a reset of a READY block gives every field that 10_state.md R42 and R44 give a value
that value, from every state; a reset while BUSY is refused: it sets the mark and every later step is refused, in the
model's form (log 10). That a reset keeps the inputs still to come is log 17's, the model's choice. -/
def Obligations.ResetEvent : Prop :=
  ∀ (s : State) (rest : List Input), s.params.Ok → s.refused = false → s.inputs = .reset :: rest →
    (s.phase = .ready →
      ∃ t, step s = .next t ∧ t.result = .success ∧ t.phase = .ready ∧ t.initDone = false ∧ t.mode = .ascii ∧
        t.idleEn = false ∧ t.fault = false ∧ t.faultCode = .none ∧ t.tcall = none ∧ t.m1 = false ∧
        t.refused = false ∧ t.inputs = rest ∧ (∀ a, Memory.read t.pbuf a = none) ∧ ∀ a, Memory.read t.wb a = none) ∧
    (s.phase ≠ .ready →
      step s = .next { s with inputs := rest, refused := true } ∧
      ∀ is, step { s with inputs := is, refused := true } = .refused .resetWhileBusy)

/-- 00_scope.md R9, 60_exceptions.md R221: parameters that violate a constraint set the mark of a refusal, and every
later step is refused; with the defaults there is no such refusal, and only a reset sets the mark. That the mark is
set in a step of its own is the model's form (log 10); that the second constraint and a LEN_W above 16 are refused too
is log 9's, the model's choice. -/
def Obligations.BadParametersAreRefused : Prop :=
  (∀ s : State,
    s.params.pbufCap < s.params.wbCap - 2 ∨ 2 ^ s.params.lenW - 1 < s.params.wbCap ∨ 16 < s.params.lenW →
    (s.refused = false → step s = .next { s with refused := true }) ∧
    (s.refused = true → step s = .refused .badParameters)) ∧
  ∀ s : State, s.params = Config.defaults →
    step s ≠ .refused .badParameters ∧ (∀ t, step s = .next t → t.refused = true → s.inputs.head? = some .reset)

/-! ## The whole machine -/

/-- The invariant holds at reset. -/
def Obligations.ResetMeetsInvariant : Prop := State.reset.Inv

/-- Every step keeps the invariant. -/
def Obligations.StepKeepsInvariant : Prop :=
  ∀ s t : State, s.Inv → step s = .next t → t.Inv

/-- 10_state.md R25, R39: in every state of the invariant a transport call is outstanding exactly when BUSY = 1. -/
def Obligations.CallOutstandingExactlyWhenBusy : Prop :=
  ∀ s : State, s.Inv → (s.tcall ≠ none ↔ s.statusWord.getLsbD 3 = true)

/-- 10_state.md R33: CFG is written only by an accepted INIT and by reset, and once INIT_DONE = 1 only reset changes
it. -/
def Obligations.ConfigurationIsSetOnce : Prop :=
  ∀ s t : State, step s = .next t → s.inputs.head? ≠ some .reset →
    (s.initDone = true → t.initDone = true ∧ t.mode = s.mode ∧ t.idleEn = s.idleEn) ∧
    (¬ (t.initDone = s.initDone ∧ t.mode = s.mode ∧ t.idleEn = s.idleEn) →
      s.phase = .ready ∧ s.initDone = false ∧
        ∃ w m b, s.inputs.head? = some (.host (.write 0x000#9 32 w)) ∧ decode w = .ok (.init m b) ∧
          t.initDone = true ∧ t.mode = m ∧ t.idleEn = b)

/-- 10_state.md R37: the only transitions of PHASE, each with its cause, in the states of the invariant. -/
def Obligations.PhaseTransitions : Prop :=
  ∀ s t : State, s.Inv → step s = .next t → s.phase ≠ t.phase →
    (∃ w n, s.inputs.head? = some (.host (.write 0x000#9 32 w)) ∧ s.phase = .ready ∧ s.initDone = true ∧
      flen s.mode n ≤ s.params.wbCap ∧
      ((decode w = .ok (.requestWrite n) ∧ t.phase = .waitWrite) ∨
        (decode w = .ok (.answerRead n) ∧ t.phase = .waitRead))) ∨
    (∃ cb, s.inputs.head? = some (.transport (.write cb)) ∧ s.phase = .waitWrite ∧ cb < 3 ∧
      ((s.mode = .rtu ∧ cb = 0 ∧ t.phase = .waitIdle) ∨ ((s.mode = .ascii ∨ cb ≠ 0) ∧ t.phase = .ready))) ∨
    (s.inputs.head? = some (.transport .idle) ∧ s.phase = .waitIdle ∧ t.phase = .ready) ∨
    (∃ cb bs, s.inputs.head? = some (.transport (.read cb bs)) ∧ s.phase = .waitRead ∧ t.phase = .ready)

/-- 60_exceptions.md R215: a step that records the first fault changes nothing else: not CFG, PHASE, TCALL, PBUF, WB
or RESULT. What a host access returns and the count of draws are the model's own fields. -/
def Obligations.FaultedActionHasNoOtherEffect : Prop :=
  ∀ s t : State, step s = .next t → s.fault = false → t.fault = true →
    t.faultCode ≠ .none ∧
    t = { s with
      fault := true, faultCode := t.faultCode, inputs := s.inputs.tail
      readData := t.readData, draws := t.draws } ∧
    (t.readData = s.readData ∨ t.readData = 0#32)

/-- 10_state.md R29, R30: FAULT and FAULT_CODE are sticky: no step but a reset clears them or overwrites the code. -/
def Obligations.FirstFaultIsSticky : Prop :=
  ∀ s t : State, step s = .next t → s.inputs.head? ≠ some .reset → s.fault = true →
    t.fault = true ∧ t.faultCode = s.faultCode

/-- 10_state.md R24: RESULT changes only in a step that ends a REQUEST_WRITE or an ANSWER_READ (or in a reset), and
Corrupted only at the end of a read (41_commands.md R147). -/
def Obligations.ResultIsWrittenOnlyByFinish : Prop :=
  ∀ s t : State, s.Inv → step s = .next t → s.inputs.head? ≠ some .reset → t.result ≠ s.result →
    t.phase = .ready ∧ t.tcall = none ∧
    (s.phase = .ready → t.result = .noBufferSpace ∧
      ∃ w n, s.inputs.head? = some (.host (.write 0x000#9 32 w)) ∧
        (decode w = .ok (.requestWrite n) ∨ decode w = .ok (.answerRead n))) ∧
    (s.phase ≠ .ready → (∃ a, s.inputs.head? = some (.transport a)) ∧ t.result ≠ .noBufferSpace) ∧
    (t.result = .corrupted → s.phase = .waitRead)

/-- 20_memory.md R54: a cell of PBUF changes only by a host write to it while READY, by a reset, or, below CUR_N, in
the step that ends a read. That a host write puts the low 8 of 32 data bits is log 13's, the model's choice. -/
def Obligations.PbufChangesOnlyWhereTheRulesSay : Prop :=
  ∀ (s t : State) (a : Nat), s.Inv → step s = .next t → s.inputs.head? ≠ some .reset →
    Memory.read t.pbuf a ≠ Memory.read s.pbuf a →
    (s.phase = .ready ∧ ∃ offset data, s.inputs.head? = some (.host (.write offset 8 data)) ∧
      offset.toNat = 0x100 + a ∧ Memory.read t.pbuf a = some (data.extractLsb' 0 8)) ∨
    (s.phase = .waitRead ∧ t.phase = .ready ∧ a < s.curN.toNat ∧ (t.result = .success ∨ t.result = .corrupted) ∧
      ∃ bs, s.inputs.head? = some (.transport (.read 0 bs)))

/-- 20_memory.md R75: while a command is in flight, a host access changes nothing of it: only a fault may be recorded.
That a PBUF read of a cell without a value records no M1 then is log 7's; what an access answers and the count of
draws are fields of the model's own (logs 8, 6): the model's choices. -/
def Obligations.HostCannotDisturbACommandInFlight : Prop :=
  ∀ (s t : State) (a : HostAccess), s.params.Ok → s.phase ≠ .ready → s.inputs.head? = some (.host a) →
    step s = .next t →
    t = { s with
      inputs := s.inputs.tail, fault := t.fault, faultCode := t.faultCode
      readData := t.readData, draws := t.draws }

/-- A run is safe exactly as long as the host and the transport keep their duties: from a clean state of the invariant
the step answers a next state, and that state is clean if and only if the input obeys. The model's choices in it: an
8-bit PBUF read while BUSY counts as obeying (log 7), one of a wrong width as not obeying (log 21), a failed read's answer
with bytes beside it as obeying (log 14), a command whose length does not fit a LEN_W below 16 as not obeying (log 9);
and a reset while BUSY (log 10) and an M1 (log 5) are next states. -/
def Obligations.DutiesCharacteriseCleanSteps : Prop :=
  ∀ (s : State) (e : Input) (rest : List Input), s.Inv → s.clean = true → s.inputs = e :: rest →
    ∃ t, step s = .next t ∧ (t.clean = true ↔ e.obeys s = true)

/-! ## End to end -/

/-- What one block sends, another block in the same mode receives: REQUEST_WRITE of a written payload issues a frame,
and ANSWER_READ, answered with that frame, ends with Success and the payload in PBUF[0..n). -/
def Obligations.FrameSentIsPayloadReceived : Prop :=
  ∀ (s r t : State) (p : List Byte) (rest : List Input),
    s.phase = .ready → s.initDone = true → flen s.mode p.length ≤ s.params.wbCap →
    (∀ i, i < p.length → Memory.read s.pbuf i = p[i]?) → exec (.requestWrite p.length) s = .next t →
    r.Inv → r.refused = false → r.phase = .ready → r.initDone = true → r.mode = s.mode →
    flen r.mode p.length ≤ r.params.wbCap →
    ∃ bs n ms, t.tcall = some (.write bs n ms) ∧
      (r.inputs =
          .host (.write 0x000#9 32 (0x20000000#32 ||| BitVec.ofNat 32 p.length)) ::
            .transport (.read 0 bs) :: rest →
        ∃ u, Host.Core.run Sys2Proof.core 2 r = .next u ∧ u.phase = .ready ∧ u.result = .success ∧
          (∀ i, i < p.length → Memory.read u.pbuf i = p[i]?) ∧
          ∀ i, p.length ≤ i → Memory.read u.pbuf i = Memory.read r.pbuf i)

/-- If exactly one bit of the frame is flipped on the way, the receiving block ends with Corrupted and PBUF[0..n)
holds no value. -/
def Obligations.FlippedFrameIsCorrupted : Prop :=
  ∀ (s r t : State) (p bs : List Byte) (n ms k j : Nat) (c : Byte) (rest : List Input),
    s.phase = .ready → s.initDone = true → flen s.mode p.length ≤ s.params.wbCap →
    (∀ i, i < p.length → Memory.read s.pbuf i = p[i]?) → exec (.requestWrite p.length) s = .next t →
    t.tcall = some (.write bs n ms) → j < 8 → bs[k]? = some c →
    r.Inv → r.refused = false → r.phase = .ready → r.initDone = true → r.mode = s.mode →
    flen r.mode p.length ≤ r.params.wbCap →
    r.inputs =
      .host (.write 0x000#9 32 (0x20000000#32 ||| BitVec.ofNat 32 p.length)) ::
        .transport (.read 0 (bs.set k (c ^^^ (1#8 <<< j)))) :: rest →
    ∃ u, Host.Core.run Sys2Proof.core 2 r = .next u ∧ u.phase = .ready ∧ u.result = .corrupted ∧
      ∀ i, i < p.length → Memory.read u.pbuf i = none
end

