-- ==== Sys2Proof/Laws/Codec.lean ====
section
/-! SUPPORT. The small lemmas of the checksum generators and the codecs: sums, injectivity of the CRC shift, hex
digits and digit pairs, lengths of frames. -/

namespace Sys2Proof.Machine

/-! The LRC -/

theorem lrcAccumulate_from (p : List Byte) (a : Byte) :
    p.foldl (fun acc b => acc + b) a = a + lrcAccumulate p := by
  unfold lrcAccumulate
  induction p generalizing a with
  | nil => simp
  | cons b p ih =>
    simp only [List.foldl_cons]
    rw [ih, ih (0x00#8 + b), BitVec.zero_add, BitVec.add_assoc]

@[simp] theorem lrcAccumulate_nil : lrcAccumulate [] = 0#8 := rfl

@[simp] theorem lrcAccumulate_cons (b : Byte) (p : List Byte) : lrcAccumulate (b :: p) = b + lrcAccumulate p := by
  rw [lrcAccumulate, List.foldl_cons, lrcAccumulate_from, BitVec.zero_add]

/-- LRC_ACC is the byte sum modulo 2^8 (40_checksums.md R112). -/
theorem lrcAccumulate_toNat (p : List Byte) : (lrcAccumulate p).toNat = (p.map BitVec.toNat).sum % 256 := by
  induction p with
  | nil => rfl
  | cons b p ih => simp [BitVec.toNat_add, ih]

/-- The LRC is the negated accumulator (40_checksums.md R112). -/
theorem lrc_eq_neg (p : List Byte) : lrc p = - lrcAccumulate p := (BitVec.neg_eq_not_add _).symm

/-! The CRC -/

/-- The shift is undone by its result's top bit, which is the bit shifted out. -/
theorem crcBit_injective : ∀ {c d : Half}, crcBit c = crcBit d → c = d := by
  intro c d h
  have key : ∀ x : Half, (crcBit x).getLsbD 15 = x.getLsbD 0 := by
    intro x; unfold crcBit; split <;> simp_all
  have h0 : c.getLsbD 0 = d.getLsbD 0 := by rw [← key, ← key, h]
  have h1 : c >>> 1 = d >>> 1 := by
    unfold crcBit at h
    rw [h0] at h
    split at h
    · exact BitVec.xor_left_inj 0xA001#16 |>.1 h
    · exact h
  refine BitVec.eq_of_getLsbD_eq fun i hi => ?_
  cases i with
  | zero => exact h0
  | succ i =>
    have := congrArg (fun x => x.getLsbD i) h1
    simpa [BitVec.getLsbD_ushiftRight, Nat.add_comm] using this

theorem crcShift_injective {k : Nat} : ∀ {c d : Half}, crcShift k c = crcShift k d → c = d := by
  induction k with
  | zero => exact fun h => h
  | succ k ih => exact fun h => crcBit_injective (ih h)

theorem crcByte_injective_reg {c d : Half} {b : Byte} (h : crcByte c b = crcByte d b) : c = d := by
  have := congrArg (· ^^^ b.setWidth 16) (crcShift_injective h)
  simpa [BitVec.xor_assoc] using this

theorem crcByte_injective_byte {c : Half} {a b : Byte} (h : crcByte c a = crcByte c b) : a = b := by
  have h' := congrArg (c ^^^ ·) (crcShift_injective h)
  simp only [← BitVec.xor_assoc, BitVec.xor_self, BitVec.zero_xor] at h'
  have := congrArg (fun x => x.setWidth 8) h'
  simpa using this

@[simp] theorem crcFrom_nil (c : Half) : crcFrom c [] = c := rfl

@[simp] theorem crcFrom_cons (c : Half) (b : Byte) (p : List Byte) : crcFrom c (b :: p) = crcFrom (crcByte c b) p := rfl

theorem crcFrom_append (c : Half) (p q : List Byte) : crcFrom c (p ++ q) = crcFrom (crcFrom c p) q := by
  simp [crcFrom]

/-- Different registers stay different under the same bytes. -/
theorem crcFrom_injective {p : List Byte} : ∀ {c d : Half}, crcFrom c p = crcFrom d p → c = d := by
  induction p with
  | nil => exact fun h => h
  | cons b p ih => exact fun h => crcByte_injective_reg (ih h)

/-- One changed byte changes the CRC. -/
theorem crcFrom_set_ne {p : List Byte} {k : Nat} {a b : Byte} (h : p[k]? = some a) (hab : a ≠ b) (c : Half) :
    crcFrom c (p.set k b) ≠ crcFrom c p := by
  induction p generalizing k c with
  | nil => simp at h
  | cons x p ih =>
    cases k with
    | zero =>
      simp only [List.getElem?_cons_zero, Option.some.injEq] at h
      subst h
      exact fun he => hab (crcByte_injective_byte (crcFrom_injective he)).symm
    | succ k => exact ih (by simpa using h) _

/-- A byte of zeros only shifts the register: the low byte is lost when it is 0. -/
theorem crcShift_of_low_zero {k : Nat} {c : Half} (h : ∀ i < k, c.getLsbD i = false) : crcShift k c = c >>> k := by
  induction k generalizing c with
  | zero => simp [crcShift]
  | succ k ih =>
    have h0 : crcBit c = c >>> 1 := if_neg (by rw [h 0 (by omega)]; decide)
    rw [crcShift, h0, ih, ← BitVec.shiftRight_add, Nat.add_comm 1 k]
    intro i hi
    rw [BitVec.getLsbD_ushiftRight]
    exact h _ (by omega)

/-! Hex digits -/

theorem hexVal_hexDigit : ∀ v : BitVec 4, hexVal (hexDigit v) = some v := by decide

theorem hexDigit_of_hexVal {c : Byte} {v : BitVec 4} (h : hexVal c = some v) : hexDigit v = c := by
  have key : ∀ c : Byte, (hexVal c).all (fun v => hexDigit v == c) = true := by decide
  have := key c
  rw [h] at this
  simpa using this

/-- The digits are `0`-`9` and `A`-`F`. -/
theorem hexDigit_range : ∀ v : BitVec 4,
    (0x30#8 ≤ hexDigit v ∧ hexDigit v ≤ 0x39#8) ∨ (0x41#8 ≤ hexDigit v ∧ hexDigit v ≤ 0x46#8) := by decide

theorem nibbles_append (b : Byte) : b.extractLsb' 4 4 ++ b.extractLsb' 0 4 = b := by
  revert b; decide

theorem append_nibbles : ∀ v w : BitVec 4,
    (v ++ w : BitVec 8).extractLsb' 4 4 = v ∧ (v ++ w : BitVec 8).extractLsb' 0 4 = w := by
  decide

theorem hexByte_hexDigits (x : Byte) (h l : BitVec 4) : hexByte x (hexDigit h) (hexDigit l) = (h ++ l, false) := by
  simp [hexByte, hexVal_hexDigit]

/-- A pair that sets no HEX_ERR is the digit pair of its byte. -/
theorem hexPair_of_hexByte {x c1 c2 : Byte} (h : (hexByte x c1 c2).2 = false) : hexPair (hexByte x c1 c2).1 = [c1, c2] := by
  unfold hexByte at h ⊢
  cases h1 : hexVal c1 with
  | none => cases h2 : hexVal c2 <;> simp [h1, h2] at h
  | some v =>
    cases h2 : hexVal c2 with
    | none => simp [h1, h2] at h
    | some w =>
      simp only [hexPair, (append_nibbles v w).1, (append_nibbles v w).2]
      rw [hexDigit_of_hexVal h1, hexDigit_of_hexVal h2]

/-- With HEX_ERR clear the decoded byte does not depend on the sentinel; HEX_ERR never does. -/
theorem hexByte_sentinel (x y c1 c2 : Byte) :
    (hexByte x c1 c2).2 = (hexByte y c1 c2).2 ∧ ((hexByte x c1 c2).2 = false → hexByte x c1 c2 = hexByte y c1 c2) := by
  unfold hexByte
  cases hexVal c1 <;> cases hexVal c2 <;> simp

@[simp] theorem hexPair_length (b : Byte) : (hexPair b).length = 2 := rfl

@[simp] theorem hexPairs_length (p : List Byte) : (hexPairs p).length = 2 * p.length := by
  induction p with
  | nil => rfl
  | cons b p ih => simp only [hexPairs, List.length_append, hexPair_length, ih, List.length_cons]; omega

@[simp] theorem asciiEncode_length (p : List Byte) : (asciiEncode p).length = 2 * p.length + 5 := by
  simp [asciiEncode]

@[simp] theorem rtuEncode_length (p : List Byte) : (rtuEncode p).length = p.length + 2 := by
  simp [rtuEncode, crcBytes]

/-- The digit pairs of `p` decode to `p`, whatever follows. -/
theorem hexBytes_hexPairs (x : Byte) (p r : List Byte) : hexBytes x p.length (hexPairs p ++ r) = (p, false) := by
  induction p with
  | nil => rfl
  | cons b p ih =>
    simp [hexPairs, hexPair, hexBytes, hexByte_hexDigits, ih, nibbles_append]

/-- Bytes decoded without HEX_ERR were digit pairs. -/
theorem hexPairs_of_hexBytes {x : Byte} {n : Nat} {f : List Byte} (h : (hexBytes x n f).2 = false) :
    f = hexPairs (hexBytes x n f).1 ++ f.drop (2 * n) ∧ (hexBytes x n f).1.length = n := by
  induction n generalizing f with
  | zero => simp [hexBytes, hexPairs]
  | succ n ih =>
    match f, h with
    | [], h => simp [hexBytes] at h
    | [_], h => simp [hexBytes] at h
    | c1 :: c2 :: f, h =>
      simp only [hexBytes, Bool.or_eq_false_iff] at h
      obtain ⟨e, l⟩ := ih h.2
      refine ⟨?_, by simp [hexBytes, l]⟩
      simp only [hexBytes, hexPairs, hexPair_of_hexByte h.1, show 2 * (n + 1) = 2 * n + 2 by omega, List.drop_succ_cons]
      rw [List.append_assoc, ← e]
      rfl

/-- HEX_ERR does not depend on the sentinel, nor does anything decoded without it. -/
theorem hexBytes_sentinel (x y : Byte) (n : Nat) (f : List Byte) :
    (hexBytes x n f).2 = (hexBytes y n f).2 ∧ ((hexBytes x n f).2 = false → hexBytes x n f = hexBytes y n f) := by
  induction n generalizing f with
  | zero => simp [hexBytes]
  | succ n ih =>
    match f with
    | [] => simp [hexBytes]
    | [_] => simp [hexBytes]
    | c1 :: c2 :: f =>
      obtain ⟨i1, i2⟩ := ih f
      obtain ⟨b1, b2⟩ := hexByte_sentinel x y c1 c2
      refine ⟨by simp [hexBytes, i1, b1], fun h => ?_⟩
      simp only [hexBytes, Bool.or_eq_false_iff] at h
      simp [hexBytes, i2 h.2, b2 h.1]

/-! The CRC bytes of a frame -/

/-- The two CRC bytes on the wire are reassembled to the CRC (40_checksums.md R117). -/
theorem receivedCrc_crcBytes (c : Half) (r : List Byte) : receivedCrc (crcBytes c ++ r) = some c := by
  simp only [crcBytes, List.cons_append, receivedCrc, Option.some.injEq]
  refine BitVec.eq_of_getLsbD_eq fun i hi => ?_
  simp only [BitVec.getLsbD_or, BitVec.getLsbD_setWidth, BitVec.getLsbD_extractLsb', BitVec.getLsbD_shiftLeft, Nat.zero_add]
  by_cases h : i < 8
  · simp [h, hi]
  · have : 8 + (i - 8) = i := by omega
    have h1 : i - 8 < 16 := by omega
    have h2 : i - 8 < 8 := by omega
    simp [h, hi, this, h1, h2]

/-- Reassembled CRC bytes are the two bytes received. -/
theorem crcBytes_of_receivedCrc {lo hi : Byte} {c : Half} (h : receivedCrc [lo, hi] = some c) : crcBytes c = [lo, hi] := by
  simp only [receivedCrc, Option.some.injEq] at h
  subst h
  simp only [crcBytes, List.cons.injEq, and_true]
  constructor <;> refine BitVec.eq_of_getLsbD_eq fun i hi => ?_
  · have h1 : i < 16 := by omega
    simp [hi, h1]
  · have h2 : 8 + i < 16 := by omega
    simp [hi, h2]

end Sys2Proof.Machine
end

