-- ==== Sys2Proof/Laws/Memory.lean ====
section
/-! SUPPORT. What the operations on PBUF and WB do: a read after a write, the canonical form, the bounds, and
that a staged frame reads back. -/

namespace Sys2Proof.Machine

@[simp] theorem Memory.read_nil (a : Nat) : Memory.read [] a = none := rfl

theorem Memory.read_cons (k : Nat) (b : Byte) (m : Memory) (a : Nat) :
    Memory.read ((k, b) :: m) a = if k = a then some b else Memory.read m a := rfl

/-- A read after a write to the same cell gives the byte written, and every other cell reads as before. -/
theorem Memory.read_write (m : Memory) (a : Nat) (v : Byte) (x : Nat) :
    Memory.read (Memory.write m a v) x = if x = a then some v else Memory.read m x := by
  induction m with
  | nil =>
    by_cases h : x = a
    · subst h; simp [Memory.write, Memory.read_cons]
    · simp [Memory.write, Memory.read_cons, h, Ne.symm h]
  | cons c m ih =>
    obtain ⟨k, b⟩ := c
    simp only [Memory.write]
    by_cases h : x = a
    · subst h
      split
      · simp [Memory.read_cons]
      · split
        · simp [Memory.read_cons]
        · rw [Memory.read_cons, if_neg (by omega), ih, if_pos rfl, if_pos rfl]
    · rw [if_neg h] at *
      split
      · rw [Memory.read_cons, if_neg (Ne.symm h)]
      · split
        · rename_i hk
          rw [Memory.read_cons, if_neg (Ne.symm h), Memory.read_cons, if_neg (hk ▸ Ne.symm h)]
        · rw [Memory.read_cons, ih, Memory.read_cons]

theorem Memory.read_write_self (m : Memory) (a : Nat) (v : Byte) : Memory.read (Memory.write m a v) a = some v := by
  simp [Memory.read_write]

theorem Memory.read_write_of_ne (m : Memory) {a x : Nat} (v : Byte) (h : x ≠ a) :
    Memory.read (Memory.write m a v) x = Memory.read m x := by
  simp [Memory.read_write, h]

/-- A cell inside a stored block reads as the block's byte, and every other cell reads as before. -/
theorem Memory.read_store (m : Memory) (a : Nat) (s : List Byte) (x : Nat) :
    Memory.read (Memory.store m a s) x = if a ≤ x ∧ x < a + s.length then s[x - a]? else Memory.read m x := by
  induction s generalizing m a with
  | nil => rw [if_neg (by simp)]; rfl
  | cons b s ih =>
    simp only [Memory.store, ih, Memory.read_write, List.length_cons]
    rcases Nat.lt_trichotomy x a with h | h | h
    · rw [if_neg (by omega), if_neg (by omega), if_neg (by omega)]
    · subst h
      rw [if_neg (by omega), if_pos rfl, if_pos (by omega)]
      simp
    · by_cases h3 : x < a + 1 + s.length
      · rw [if_pos (by omega), if_pos (by omega), show x - a = x - (a + 1) + 1 by omega]
        simp
      · rw [if_neg (by omega), if_neg (by omega), if_neg (by omega)]

/-- An erased cell holds no value, and every other cell reads as before. -/
theorem Memory.read_eraseRange (m : Memory) (a n x : Nat) :
    Memory.read (Memory.eraseRange m a n) x = if a ≤ x ∧ x < a + n then none else Memory.read m x := by
  induction m with
  | nil => simp [Memory.eraseRange]
  | cons c m ih =>
    obtain ⟨k, b⟩ := c
    simp only [Memory.eraseRange]
    split
    · rw [ih, Memory.read_cons]
      by_cases hx : a ≤ x ∧ x < a + n
      · rw [if_pos hx, if_pos hx]
      · rw [if_neg hx, if_neg hx, if_neg (by rintro rfl; contradiction)]
    · rw [Memory.read_cons, ih, Memory.read_cons]
      by_cases hx : a ≤ x ∧ x < a + n
      · rw [if_pos hx, if_pos hx, if_neg (by rintro rfl; contradiction)]
      · rw [if_neg hx, if_neg hx]

theorem Memory.mem_write {m : Memory} {a : Nat} {v : Byte} {c : Host.Cell} (h : c ∈ Memory.write m a v) :
    c = (a, v) ∨ c ∈ m := by
  induction m with
  | nil => simpa [Memory.write] using h
  | cons d m ih =>
    obtain ⟨k, b⟩ := d
    simp only [Memory.write] at h
    split at h
    · simpa using h
    · split at h
      · rcases List.mem_cons.1 h with h | h
        · exact .inl h
        · exact .inr (List.mem_cons_of_mem _ h)
      · rcases List.mem_cons.1 h with h | h
        · exact .inr (h ▸ List.mem_cons_self ..)
        · exact (ih h).imp id (List.mem_cons_of_mem _)

theorem Memory.mem_eraseRange {m : Memory} {a n : Nat} {c : Host.Cell} (h : c ∈ Memory.eraseRange m a n) : c ∈ m := by
  induction m with
  | nil => simp [Memory.eraseRange] at h
  | cons d m ih =>
    obtain ⟨k, b⟩ := d
    simp only [Memory.eraseRange] at h
    split at h
    · exact List.mem_cons_of_mem _ (ih h)
    · rcases List.mem_cons.1 h with h | h
      · exact h ▸ List.mem_cons_self ..
      · exact List.mem_cons_of_mem _ (ih h)

theorem Memory.wf_nil : Memory.wf [] := List.Pairwise.nil

theorem Memory.wf_write {m : Memory} (h : Memory.wf m) (a : Nat) (v : Byte) : Memory.wf (Memory.write m a v) := by
  induction m with
  | nil => simp [Memory.write, Memory.wf]
  | cons d m ih =>
    obtain ⟨k, b⟩ := d
    obtain ⟨hk, hm⟩ := List.pairwise_cons.1 h
    simp only [Memory.write]
    split
    · rename_i hak
      refine List.pairwise_cons.2 ⟨fun c hc => ?_, h⟩
      rcases List.mem_cons.1 hc with hc | hc
      · subst hc; exact hak
      · exact Nat.lt_trans hak (hk c hc)
    · split
      · rename_i hak; subst hak
        exact List.pairwise_cons.2 ⟨hk, hm⟩
      · refine List.pairwise_cons.2 ⟨fun c hc => ?_, ih hm⟩
        rcases Memory.mem_write hc with hc | hc
        · subst hc; simp only; omega
        · exact hk c hc

theorem Memory.wf_store {m : Memory} (h : Memory.wf m) (a : Nat) (s : List Byte) : Memory.wf (Memory.store m a s) := by
  induction s generalizing m a with
  | nil => exact h
  | cons b s ih => exact ih (Memory.wf_write h a b) (a + 1)

theorem Memory.wf_eraseRange {m : Memory} (h : Memory.wf m) (a n : Nat) : Memory.wf (Memory.eraseRange m a n) := by
  induction m with
  | nil => exact h
  | cons d m ih =>
    obtain ⟨k, b⟩ := d
    obtain ⟨hk, hm⟩ := List.pairwise_cons.1 h
    simp only [Memory.eraseRange]
    split
    · exact ih hm
    · exact List.pairwise_cons.2 ⟨fun c hc => hk c (Memory.mem_eraseRange hc), ih hm⟩

/-- Every cell that holds a value has an index below `cap`. -/
abbrev Memory.Below (m : Memory) (cap : Nat) : Prop := ∀ c ∈ m, c.1 < cap

theorem Memory.below_write {m : Memory} {cap : Nat} (h : Memory.Below m cap) {a : Nat} (ha : a < cap) (v : Byte) :
    Memory.Below (Memory.write m a v) cap := by
  intro c hc
  rcases Memory.mem_write hc with hc | hc
  · subst hc; exact ha
  · exact h c hc

theorem Memory.below_store {m : Memory} {cap : Nat} (h : Memory.Below m cap) {a : Nat} {s : List Byte}
    (ha : a + s.length ≤ cap) : Memory.Below (Memory.store m a s) cap := by
  induction s generalizing m a with
  | nil => exact h
  | cons b s ih =>
    simp only [List.length_cons] at ha
    exact ih (Memory.below_write h (by omega) b) (by omega)

theorem Memory.below_eraseRange {m : Memory} {cap : Nat} (h : Memory.Below m cap) (a n : Nat) :
    Memory.Below (Memory.eraseRange m a n) cap := fun c hc => h c (Memory.mem_eraseRange hc)

/-- The cells that all hold the bytes of `p` read as `p`. -/
theorem Memory.bytes_eq {m : Memory} {a : Nat} {p : List Byte} (h : ∀ i < p.length, Memory.read m (a + i) = p[i]?) :
    Memory.bytes m a p.length = p := by
  induction p generalizing a with
  | nil => rfl
  | cons b p ih =>
    have h0 := h 0 (by simp)
    simp only [Nat.add_zero, List.getElem?_cons_zero] at h0
    simp only [List.length_cons, Memory.bytes, h0]
    rw [ih]
    intro i hi
    have := h (i + 1) (by simpa using hi)
    simpa [Nat.add_assoc, Nat.add_comm, Nat.add_left_comm] using this

/-- A staged frame reads back as it was staged (20_memory.md R57). -/
theorem Memory.bytes_store (m : Memory) (a : Nat) (s : List Byte) :
    Memory.bytes (Memory.store m a s) a s.length = s := by
  refine Memory.bytes_eq fun i hi => ?_
  rw [Memory.read_store, if_pos ⟨by omega, by omega⟩, Nat.add_sub_cancel_left]

/-- The snapshot of cells that all hold a value is their bytes; no value is free (20_memory.md R53). -/
theorem Memory.snapshot_eq {m : Memory} {a : Nat} {p : List Byte} (k : Nat)
    (h : ∀ i < p.length, Memory.read m (a + i) = p[i]?) : Memory.snapshot m a p.length k = p := by
  induction p generalizing a with
  | nil => rfl
  | cons b p ih =>
    have h0 := h 0 (by simp)
    simp only [Nat.add_zero, List.getElem?_cons_zero] at h0
    simp only [List.length_cons, Memory.snapshot, h0]
    rw [ih]
    intro i hi
    have := h (i + 1) (by simpa using hi)
    simpa [Nat.add_assoc, Nat.add_comm, Nat.add_left_comm] using this

@[simp] theorem Memory.snapshot_length (m : Memory) (a n k : Nat) : (Memory.snapshot m a n k).length = n := by
  induction n generalizing a k with
  | zero => rfl
  | succ n ih => simp only [Memory.snapshot]; split <;> simp [ih]

/-- A cell of the snapshot that holds a value gives that value. -/
theorem Memory.snapshot_getElem? {m : Memory} {a n k i : Nat} {b : Byte} (hi : i < n)
    (h : Memory.read m (a + i) = some b) : (Memory.snapshot m a n k)[i]? = some b := by
  induction n generalizing a k i with
  | zero => omega
  | succ n ih =>
    simp only [Memory.snapshot]
    cases i with
    | zero => simp only [Nat.add_zero] at h; simp [h]
    | succ i =>
      have h' : Memory.read m (a + 1 + i) = some b := by rw [← h]; congr 1; omega
      split <;> simpa using ih (by omega) h'

theorem Memory.missing_eq_zero_iff {m : Memory} {a n : Nat} :
    Memory.missing m a n = 0 ↔ ∀ i < n, Memory.read m (a + i) ≠ none := by
  induction n generalizing a with
  | zero => simp [Memory.missing]
  | succ n ih =>
    simp only [Memory.missing]
    constructor
    · intro h i hi
      cases hr : Memory.read m a with
      | none => simp [hr] at h
      | some b =>
        simp only [hr] at h
        cases i with
        | zero => simp [hr]
        | succ i =>
          have := ih.1 h i (by omega)
          rwa [show a + (i + 1) = a + 1 + i by omega]
    · intro h
      have h0 := h 0 (by omega)
      cases hr : Memory.read m a with
      | none => simp [hr] at h0
      | some b =>
        simp only
        refine ih.2 fun i hi => ?_
        have := h (i + 1) (by omega)
        rwa [show a + 1 + i = a + (i + 1) by omega]

end Sys2Proof.Machine
end

