-- ==== Sys2Proof/Laws/State.lean ====
section
/-! SUPPORT. One lemma per field per update: what each named update of State leaves in each field. -/

namespace Sys2Proof.Machine

variable (s : State)

/-! `State.raiseFault` -/

@[simp] theorem State.raiseFault_params (k : FaultCode) : (s.raiseFault k).params = s.params := rfl
@[simp] theorem State.raiseFault_result (k : FaultCode) : (s.raiseFault k).result = s.result := rfl
@[simp] theorem State.raiseFault_phase (k : FaultCode) : (s.raiseFault k).phase = s.phase := rfl
@[simp] theorem State.raiseFault_initDone (k : FaultCode) : (s.raiseFault k).initDone = s.initDone := rfl
@[simp] theorem State.raiseFault_mode (k : FaultCode) : (s.raiseFault k).mode = s.mode := rfl
@[simp] theorem State.raiseFault_idleEn (k : FaultCode) : (s.raiseFault k).idleEn = s.idleEn := rfl
@[simp] theorem State.raiseFault_fault (k : FaultCode) : (s.raiseFault k).fault = true := rfl
@[simp] theorem State.raiseFault_faultCode (k : FaultCode) : (s.raiseFault k).faultCode = if s.fault then s.faultCode else k := rfl
@[simp] theorem State.raiseFault_pbuf (k : FaultCode) : (s.raiseFault k).pbuf = s.pbuf := rfl
@[simp] theorem State.raiseFault_wb (k : FaultCode) : (s.raiseFault k).wb = s.wb := rfl
@[simp] theorem State.raiseFault_curOp (k : FaultCode) : (s.raiseFault k).curOp = s.curOp := rfl
@[simp] theorem State.raiseFault_curN (k : FaultCode) : (s.raiseFault k).curN = s.curN := rfl
@[simp] theorem State.raiseFault_curFlen (k : FaultCode) : (s.raiseFault k).curFlen = s.curFlen := rfl
@[simp] theorem State.raiseFault_tcall (k : FaultCode) : (s.raiseFault k).tcall = s.tcall := rfl
@[simp] theorem State.raiseFault_lrcAcc (k : FaultCode) : (s.raiseFault k).lrcAcc = s.lrcAcc := rfl
@[simp] theorem State.raiseFault_crcReg (k : FaultCode) : (s.raiseFault k).crcReg = s.crcReg := rfl
@[simp] theorem State.raiseFault_hexErr (k : FaultCode) : (s.raiseFault k).hexErr = s.hexErr := rfl
@[simp] theorem State.raiseFault_m1 (k : FaultCode) : (s.raiseFault k).m1 = s.m1 := rfl
@[simp] theorem State.raiseFault_refused (k : FaultCode) : (s.raiseFault k).refused = s.refused := rfl
@[simp] theorem State.raiseFault_inputs (k : FaultCode) : (s.raiseFault k).inputs = s.inputs := rfl
@[simp] theorem State.raiseFault_readData (k : FaultCode) : (s.raiseFault k).readData = s.readData := rfl
@[simp] theorem State.raiseFault_draws (k : FaultCode) : (s.raiseFault k).draws = s.draws := rfl

/-! `State.finish` -/

@[simp] theorem State.finish_params (res : ProtocolResult) : (s.finish res).params = s.params := rfl
@[simp] theorem State.finish_result (res : ProtocolResult) : (s.finish res).result = res := rfl
@[simp] theorem State.finish_phase (res : ProtocolResult) : (s.finish res).phase = .ready := rfl
@[simp] theorem State.finish_initDone (res : ProtocolResult) : (s.finish res).initDone = s.initDone := rfl
@[simp] theorem State.finish_mode (res : ProtocolResult) : (s.finish res).mode = s.mode := rfl
@[simp] theorem State.finish_idleEn (res : ProtocolResult) : (s.finish res).idleEn = s.idleEn := rfl
@[simp] theorem State.finish_fault (res : ProtocolResult) : (s.finish res).fault = s.fault := rfl
@[simp] theorem State.finish_faultCode (res : ProtocolResult) : (s.finish res).faultCode = s.faultCode := rfl
@[simp] theorem State.finish_pbuf (res : ProtocolResult) : (s.finish res).pbuf = s.pbuf := rfl
@[simp] theorem State.finish_wb (res : ProtocolResult) : (s.finish res).wb = s.wb := rfl
@[simp] theorem State.finish_curOp (res : ProtocolResult) : (s.finish res).curOp = s.curOp := rfl
@[simp] theorem State.finish_curN (res : ProtocolResult) : (s.finish res).curN = s.curN := rfl
@[simp] theorem State.finish_curFlen (res : ProtocolResult) : (s.finish res).curFlen = s.curFlen := rfl
@[simp] theorem State.finish_tcall (res : ProtocolResult) : (s.finish res).tcall = s.tcall := rfl
@[simp] theorem State.finish_lrcAcc (res : ProtocolResult) : (s.finish res).lrcAcc = s.lrcAcc := rfl
@[simp] theorem State.finish_crcReg (res : ProtocolResult) : (s.finish res).crcReg = s.crcReg := rfl
@[simp] theorem State.finish_hexErr (res : ProtocolResult) : (s.finish res).hexErr = s.hexErr := rfl
@[simp] theorem State.finish_m1 (res : ProtocolResult) : (s.finish res).m1 = s.m1 := rfl
@[simp] theorem State.finish_refused (res : ProtocolResult) : (s.finish res).refused = s.refused := rfl
@[simp] theorem State.finish_inputs (res : ProtocolResult) : (s.finish res).inputs = s.inputs := rfl
@[simp] theorem State.finish_readData (res : ProtocolResult) : (s.finish res).readData = s.readData := rfl
@[simp] theorem State.finish_draws (res : ProtocolResult) : (s.finish res).draws = s.draws := rfl

/-! `State.configure` -/

@[simp] theorem State.configure_params (m : Mode) (b : Bool) : (s.configure m b).params = s.params := rfl
@[simp] theorem State.configure_result (m : Mode) (b : Bool) : (s.configure m b).result = s.result := rfl
@[simp] theorem State.configure_phase (m : Mode) (b : Bool) : (s.configure m b).phase = s.phase := rfl
@[simp] theorem State.configure_initDone (m : Mode) (b : Bool) : (s.configure m b).initDone = true := rfl
@[simp] theorem State.configure_mode (m : Mode) (b : Bool) : (s.configure m b).mode = m := rfl
@[simp] theorem State.configure_idleEn (m : Mode) (b : Bool) : (s.configure m b).idleEn = b := rfl
@[simp] theorem State.configure_fault (m : Mode) (b : Bool) : (s.configure m b).fault = s.fault := rfl
@[simp] theorem State.configure_faultCode (m : Mode) (b : Bool) : (s.configure m b).faultCode = s.faultCode := rfl
@[simp] theorem State.configure_pbuf (m : Mode) (b : Bool) : (s.configure m b).pbuf = s.pbuf := rfl
@[simp] theorem State.configure_wb (m : Mode) (b : Bool) : (s.configure m b).wb = s.wb := rfl
@[simp] theorem State.configure_curOp (m : Mode) (b : Bool) : (s.configure m b).curOp = s.curOp := rfl
@[simp] theorem State.configure_curN (m : Mode) (b : Bool) : (s.configure m b).curN = s.curN := rfl
@[simp] theorem State.configure_curFlen (m : Mode) (b : Bool) : (s.configure m b).curFlen = s.curFlen := rfl
@[simp] theorem State.configure_tcall (m : Mode) (b : Bool) : (s.configure m b).tcall = s.tcall := rfl
@[simp] theorem State.configure_lrcAcc (m : Mode) (b : Bool) : (s.configure m b).lrcAcc = s.lrcAcc := rfl
@[simp] theorem State.configure_crcReg (m : Mode) (b : Bool) : (s.configure m b).crcReg = s.crcReg := rfl
@[simp] theorem State.configure_hexErr (m : Mode) (b : Bool) : (s.configure m b).hexErr = s.hexErr := rfl
@[simp] theorem State.configure_m1 (m : Mode) (b : Bool) : (s.configure m b).m1 = s.m1 := rfl
@[simp] theorem State.configure_refused (m : Mode) (b : Bool) : (s.configure m b).refused = s.refused := rfl
@[simp] theorem State.configure_inputs (m : Mode) (b : Bool) : (s.configure m b).inputs = s.inputs := rfl
@[simp] theorem State.configure_readData (m : Mode) (b : Bool) : (s.configure m b).readData = s.readData := rfl
@[simp] theorem State.configure_draws (m : Mode) (b : Bool) : (s.configure m b).draws = s.draws := rfl

/-! `State.latch` -/

@[simp] theorem State.latch_params (op : BitVec 2) (n fl : Nat) : (s.latch op n fl).params = s.params := rfl
@[simp] theorem State.latch_result (op : BitVec 2) (n fl : Nat) : (s.latch op n fl).result = s.result := rfl
@[simp] theorem State.latch_phase (op : BitVec 2) (n fl : Nat) : (s.latch op n fl).phase = s.phase := rfl
@[simp] theorem State.latch_initDone (op : BitVec 2) (n fl : Nat) : (s.latch op n fl).initDone = s.initDone := rfl
@[simp] theorem State.latch_mode (op : BitVec 2) (n fl : Nat) : (s.latch op n fl).mode = s.mode := rfl
@[simp] theorem State.latch_idleEn (op : BitVec 2) (n fl : Nat) : (s.latch op n fl).idleEn = s.idleEn := rfl
@[simp] theorem State.latch_fault (op : BitVec 2) (n fl : Nat) : (s.latch op n fl).fault = s.fault := rfl
@[simp] theorem State.latch_faultCode (op : BitVec 2) (n fl : Nat) : (s.latch op n fl).faultCode = s.faultCode := rfl
@[simp] theorem State.latch_pbuf (op : BitVec 2) (n fl : Nat) : (s.latch op n fl).pbuf = s.pbuf := rfl
@[simp] theorem State.latch_wb (op : BitVec 2) (n fl : Nat) : (s.latch op n fl).wb = s.wb := rfl
@[simp] theorem State.latch_curOp (op : BitVec 2) (n fl : Nat) : (s.latch op n fl).curOp = op := rfl
@[simp] theorem State.latch_curN (op : BitVec 2) (n fl : Nat) : (s.latch op n fl).curN = BitVec.ofNat 16 n := rfl
@[simp] theorem State.latch_curFlen (op : BitVec 2) (n fl : Nat) : (s.latch op n fl).curFlen = BitVec.ofNat 18 fl := rfl
@[simp] theorem State.latch_tcall (op : BitVec 2) (n fl : Nat) : (s.latch op n fl).tcall = s.tcall := rfl
@[simp] theorem State.latch_lrcAcc (op : BitVec 2) (n fl : Nat) : (s.latch op n fl).lrcAcc = s.lrcAcc := rfl
@[simp] theorem State.latch_crcReg (op : BitVec 2) (n fl : Nat) : (s.latch op n fl).crcReg = s.crcReg := rfl
@[simp] theorem State.latch_hexErr (op : BitVec 2) (n fl : Nat) : (s.latch op n fl).hexErr = s.hexErr := rfl
@[simp] theorem State.latch_m1 (op : BitVec 2) (n fl : Nat) : (s.latch op n fl).m1 = s.m1 := rfl
@[simp] theorem State.latch_refused (op : BitVec 2) (n fl : Nat) : (s.latch op n fl).refused = s.refused := rfl
@[simp] theorem State.latch_inputs (op : BitVec 2) (n fl : Nat) : (s.latch op n fl).inputs = s.inputs := rfl
@[simp] theorem State.latch_readData (op : BitVec 2) (n fl : Nat) : (s.latch op n fl).readData = s.readData := rfl
@[simp] theorem State.latch_draws (op : BitVec 2) (n fl : Nat) : (s.latch op n fl).draws = s.draws := rfl

/-! `State.issue` -/

@[simp] theorem State.issue_params (c : TransportCall) (ph : Phase) : (s.issue c ph).params = s.params := rfl
@[simp] theorem State.issue_result (c : TransportCall) (ph : Phase) : (s.issue c ph).result = s.result := rfl
@[simp] theorem State.issue_phase (c : TransportCall) (ph : Phase) : (s.issue c ph).phase = ph := rfl
@[simp] theorem State.issue_initDone (c : TransportCall) (ph : Phase) : (s.issue c ph).initDone = s.initDone := rfl
@[simp] theorem State.issue_mode (c : TransportCall) (ph : Phase) : (s.issue c ph).mode = s.mode := rfl
@[simp] theorem State.issue_idleEn (c : TransportCall) (ph : Phase) : (s.issue c ph).idleEn = s.idleEn := rfl
@[simp] theorem State.issue_fault (c : TransportCall) (ph : Phase) : (s.issue c ph).fault = s.fault := rfl
@[simp] theorem State.issue_faultCode (c : TransportCall) (ph : Phase) : (s.issue c ph).faultCode = s.faultCode := rfl
@[simp] theorem State.issue_pbuf (c : TransportCall) (ph : Phase) : (s.issue c ph).pbuf = s.pbuf := rfl
@[simp] theorem State.issue_wb (c : TransportCall) (ph : Phase) : (s.issue c ph).wb = s.wb := rfl
@[simp] theorem State.issue_curOp (c : TransportCall) (ph : Phase) : (s.issue c ph).curOp = s.curOp := rfl
@[simp] theorem State.issue_curN (c : TransportCall) (ph : Phase) : (s.issue c ph).curN = s.curN := rfl
@[simp] theorem State.issue_curFlen (c : TransportCall) (ph : Phase) : (s.issue c ph).curFlen = s.curFlen := rfl
@[simp] theorem State.issue_tcall (c : TransportCall) (ph : Phase) : (s.issue c ph).tcall = some c := rfl
@[simp] theorem State.issue_lrcAcc (c : TransportCall) (ph : Phase) : (s.issue c ph).lrcAcc = s.lrcAcc := rfl
@[simp] theorem State.issue_crcReg (c : TransportCall) (ph : Phase) : (s.issue c ph).crcReg = s.crcReg := rfl
@[simp] theorem State.issue_hexErr (c : TransportCall) (ph : Phase) : (s.issue c ph).hexErr = s.hexErr := rfl
@[simp] theorem State.issue_m1 (c : TransportCall) (ph : Phase) : (s.issue c ph).m1 = s.m1 := rfl
@[simp] theorem State.issue_refused (c : TransportCall) (ph : Phase) : (s.issue c ph).refused = s.refused := rfl
@[simp] theorem State.issue_inputs (c : TransportCall) (ph : Phase) : (s.issue c ph).inputs = s.inputs := rfl
@[simp] theorem State.issue_readData (c : TransportCall) (ph : Phase) : (s.issue c ph).readData = s.readData := rfl
@[simp] theorem State.issue_draws (c : TransportCall) (ph : Phase) : (s.issue c ph).draws = s.draws := rfl

/-! `State.closeCall` -/

@[simp] theorem State.closeCall_params : s.closeCall.params = s.params := rfl
@[simp] theorem State.closeCall_result : s.closeCall.result = s.result := rfl
@[simp] theorem State.closeCall_phase : s.closeCall.phase = s.phase := rfl
@[simp] theorem State.closeCall_initDone : s.closeCall.initDone = s.initDone := rfl
@[simp] theorem State.closeCall_mode : s.closeCall.mode = s.mode := rfl
@[simp] theorem State.closeCall_idleEn : s.closeCall.idleEn = s.idleEn := rfl
@[simp] theorem State.closeCall_fault : s.closeCall.fault = s.fault := rfl
@[simp] theorem State.closeCall_faultCode : s.closeCall.faultCode = s.faultCode := rfl
@[simp] theorem State.closeCall_pbuf : s.closeCall.pbuf = s.pbuf := rfl
@[simp] theorem State.closeCall_wb : s.closeCall.wb = s.wb := rfl
@[simp] theorem State.closeCall_curOp : s.closeCall.curOp = s.curOp := rfl
@[simp] theorem State.closeCall_curN : s.closeCall.curN = s.curN := rfl
@[simp] theorem State.closeCall_curFlen : s.closeCall.curFlen = s.curFlen := rfl
@[simp] theorem State.closeCall_tcall : s.closeCall.tcall = none := rfl
@[simp] theorem State.closeCall_lrcAcc : s.closeCall.lrcAcc = s.lrcAcc := rfl
@[simp] theorem State.closeCall_crcReg : s.closeCall.crcReg = s.crcReg := rfl
@[simp] theorem State.closeCall_hexErr : s.closeCall.hexErr = s.hexErr := rfl
@[simp] theorem State.closeCall_m1 : s.closeCall.m1 = s.m1 := rfl
@[simp] theorem State.closeCall_refused : s.closeCall.refused = s.refused := rfl
@[simp] theorem State.closeCall_inputs : s.closeCall.inputs = s.inputs := rfl
@[simp] theorem State.closeCall_readData : s.closeCall.readData = s.readData := rfl
@[simp] theorem State.closeCall_draws : s.closeCall.draws = s.draws := rfl

/-! `State.stageFrame` -/

@[simp] theorem State.stageFrame_params (f : List Byte) : (s.stageFrame f).params = s.params := rfl
@[simp] theorem State.stageFrame_result (f : List Byte) : (s.stageFrame f).result = s.result := rfl
@[simp] theorem State.stageFrame_phase (f : List Byte) : (s.stageFrame f).phase = s.phase := rfl
@[simp] theorem State.stageFrame_initDone (f : List Byte) : (s.stageFrame f).initDone = s.initDone := rfl
@[simp] theorem State.stageFrame_mode (f : List Byte) : (s.stageFrame f).mode = s.mode := rfl
@[simp] theorem State.stageFrame_idleEn (f : List Byte) : (s.stageFrame f).idleEn = s.idleEn := rfl
@[simp] theorem State.stageFrame_fault (f : List Byte) : (s.stageFrame f).fault = s.fault := rfl
@[simp] theorem State.stageFrame_faultCode (f : List Byte) : (s.stageFrame f).faultCode = s.faultCode := rfl
@[simp] theorem State.stageFrame_pbuf (f : List Byte) : (s.stageFrame f).pbuf = s.pbuf := rfl
@[simp] theorem State.stageFrame_wb (f : List Byte) : (s.stageFrame f).wb = Memory.store s.wb 0 f := rfl
@[simp] theorem State.stageFrame_curOp (f : List Byte) : (s.stageFrame f).curOp = s.curOp := rfl
@[simp] theorem State.stageFrame_curN (f : List Byte) : (s.stageFrame f).curN = s.curN := rfl
@[simp] theorem State.stageFrame_curFlen (f : List Byte) : (s.stageFrame f).curFlen = s.curFlen := rfl
@[simp] theorem State.stageFrame_tcall (f : List Byte) : (s.stageFrame f).tcall = s.tcall := rfl
@[simp] theorem State.stageFrame_lrcAcc (f : List Byte) : (s.stageFrame f).lrcAcc = s.lrcAcc := rfl
@[simp] theorem State.stageFrame_crcReg (f : List Byte) : (s.stageFrame f).crcReg = s.crcReg := rfl
@[simp] theorem State.stageFrame_hexErr (f : List Byte) : (s.stageFrame f).hexErr = s.hexErr := rfl
@[simp] theorem State.stageFrame_m1 (f : List Byte) : (s.stageFrame f).m1 = s.m1 := rfl
@[simp] theorem State.stageFrame_refused (f : List Byte) : (s.stageFrame f).refused = s.refused := rfl
@[simp] theorem State.stageFrame_inputs (f : List Byte) : (s.stageFrame f).inputs = s.inputs := rfl
@[simp] theorem State.stageFrame_readData (f : List Byte) : (s.stageFrame f).readData = s.readData := rfl
@[simp] theorem State.stageFrame_draws (f : List Byte) : (s.stageFrame f).draws = s.draws := rfl

/-! `State.dropFrame` -/

@[simp] theorem State.dropFrame_params : s.dropFrame.params = s.params := rfl
@[simp] theorem State.dropFrame_result : s.dropFrame.result = s.result := rfl
@[simp] theorem State.dropFrame_phase : s.dropFrame.phase = s.phase := rfl
@[simp] theorem State.dropFrame_initDone : s.dropFrame.initDone = s.initDone := rfl
@[simp] theorem State.dropFrame_mode : s.dropFrame.mode = s.mode := rfl
@[simp] theorem State.dropFrame_idleEn : s.dropFrame.idleEn = s.idleEn := rfl
@[simp] theorem State.dropFrame_fault : s.dropFrame.fault = s.fault := rfl
@[simp] theorem State.dropFrame_faultCode : s.dropFrame.faultCode = s.faultCode := rfl
@[simp] theorem State.dropFrame_pbuf : s.dropFrame.pbuf = s.pbuf := rfl
@[simp] theorem State.dropFrame_wb : s.dropFrame.wb = [] := rfl
@[simp] theorem State.dropFrame_curOp : s.dropFrame.curOp = s.curOp := rfl
@[simp] theorem State.dropFrame_curN : s.dropFrame.curN = s.curN := rfl
@[simp] theorem State.dropFrame_curFlen : s.dropFrame.curFlen = s.curFlen := rfl
@[simp] theorem State.dropFrame_tcall : s.dropFrame.tcall = s.tcall := rfl
@[simp] theorem State.dropFrame_lrcAcc : s.dropFrame.lrcAcc = s.lrcAcc := rfl
@[simp] theorem State.dropFrame_crcReg : s.dropFrame.crcReg = s.crcReg := rfl
@[simp] theorem State.dropFrame_hexErr : s.dropFrame.hexErr = s.hexErr := rfl
@[simp] theorem State.dropFrame_m1 : s.dropFrame.m1 = s.m1 := rfl
@[simp] theorem State.dropFrame_refused : s.dropFrame.refused = s.refused := rfl
@[simp] theorem State.dropFrame_inputs : s.dropFrame.inputs = s.inputs := rfl
@[simp] theorem State.dropFrame_readData : s.dropFrame.readData = s.readData := rfl
@[simp] theorem State.dropFrame_draws : s.dropFrame.draws = s.draws := rfl

/-! `State.deliver` -/

@[simp] theorem State.deliver_params (q : List Byte) : (s.deliver q).params = s.params := rfl
@[simp] theorem State.deliver_result (q : List Byte) : (s.deliver q).result = s.result := rfl
@[simp] theorem State.deliver_phase (q : List Byte) : (s.deliver q).phase = s.phase := rfl
@[simp] theorem State.deliver_initDone (q : List Byte) : (s.deliver q).initDone = s.initDone := rfl
@[simp] theorem State.deliver_mode (q : List Byte) : (s.deliver q).mode = s.mode := rfl
@[simp] theorem State.deliver_idleEn (q : List Byte) : (s.deliver q).idleEn = s.idleEn := rfl
@[simp] theorem State.deliver_fault (q : List Byte) : (s.deliver q).fault = s.fault := rfl
@[simp] theorem State.deliver_faultCode (q : List Byte) : (s.deliver q).faultCode = s.faultCode := rfl
@[simp] theorem State.deliver_pbuf (q : List Byte) : (s.deliver q).pbuf = Memory.store s.pbuf 0 q := rfl
@[simp] theorem State.deliver_wb (q : List Byte) : (s.deliver q).wb = s.wb := rfl
@[simp] theorem State.deliver_curOp (q : List Byte) : (s.deliver q).curOp = s.curOp := rfl
@[simp] theorem State.deliver_curN (q : List Byte) : (s.deliver q).curN = s.curN := rfl
@[simp] theorem State.deliver_curFlen (q : List Byte) : (s.deliver q).curFlen = s.curFlen := rfl
@[simp] theorem State.deliver_tcall (q : List Byte) : (s.deliver q).tcall = s.tcall := rfl
@[simp] theorem State.deliver_lrcAcc (q : List Byte) : (s.deliver q).lrcAcc = s.lrcAcc := rfl
@[simp] theorem State.deliver_crcReg (q : List Byte) : (s.deliver q).crcReg = s.crcReg := rfl
@[simp] theorem State.deliver_hexErr (q : List Byte) : (s.deliver q).hexErr = s.hexErr := rfl
@[simp] theorem State.deliver_m1 (q : List Byte) : (s.deliver q).m1 = s.m1 := rfl
@[simp] theorem State.deliver_refused (q : List Byte) : (s.deliver q).refused = s.refused := rfl
@[simp] theorem State.deliver_inputs (q : List Byte) : (s.deliver q).inputs = s.inputs := rfl
@[simp] theorem State.deliver_readData (q : List Byte) : (s.deliver q).readData = s.readData := rfl
@[simp] theorem State.deliver_draws (q : List Byte) : (s.deliver q).draws = s.draws := rfl

/-! `State.invalidate` -/

@[simp] theorem State.invalidate_params (n : Nat) : (s.invalidate n).params = s.params := rfl
@[simp] theorem State.invalidate_result (n : Nat) : (s.invalidate n).result = s.result := rfl
@[simp] theorem State.invalidate_phase (n : Nat) : (s.invalidate n).phase = s.phase := rfl
@[simp] theorem State.invalidate_initDone (n : Nat) : (s.invalidate n).initDone = s.initDone := rfl
@[simp] theorem State.invalidate_mode (n : Nat) : (s.invalidate n).mode = s.mode := rfl
@[simp] theorem State.invalidate_idleEn (n : Nat) : (s.invalidate n).idleEn = s.idleEn := rfl
@[simp] theorem State.invalidate_fault (n : Nat) : (s.invalidate n).fault = s.fault := rfl
@[simp] theorem State.invalidate_faultCode (n : Nat) : (s.invalidate n).faultCode = s.faultCode := rfl
@[simp] theorem State.invalidate_pbuf (n : Nat) : (s.invalidate n).pbuf = Memory.eraseRange s.pbuf 0 n := rfl
@[simp] theorem State.invalidate_wb (n : Nat) : (s.invalidate n).wb = s.wb := rfl
@[simp] theorem State.invalidate_curOp (n : Nat) : (s.invalidate n).curOp = s.curOp := rfl
@[simp] theorem State.invalidate_curN (n : Nat) : (s.invalidate n).curN = s.curN := rfl
@[simp] theorem State.invalidate_curFlen (n : Nat) : (s.invalidate n).curFlen = s.curFlen := rfl
@[simp] theorem State.invalidate_tcall (n : Nat) : (s.invalidate n).tcall = s.tcall := rfl
@[simp] theorem State.invalidate_lrcAcc (n : Nat) : (s.invalidate n).lrcAcc = s.lrcAcc := rfl
@[simp] theorem State.invalidate_crcReg (n : Nat) : (s.invalidate n).crcReg = s.crcReg := rfl
@[simp] theorem State.invalidate_hexErr (n : Nat) : (s.invalidate n).hexErr = s.hexErr := rfl
@[simp] theorem State.invalidate_m1 (n : Nat) : (s.invalidate n).m1 = s.m1 := rfl
@[simp] theorem State.invalidate_refused (n : Nat) : (s.invalidate n).refused = s.refused := rfl
@[simp] theorem State.invalidate_inputs (n : Nat) : (s.invalidate n).inputs = s.inputs := rfl
@[simp] theorem State.invalidate_readData (n : Nat) : (s.invalidate n).readData = s.readData := rfl
@[simp] theorem State.invalidate_draws (n : Nat) : (s.invalidate n).draws = s.draws := rfl

/-! `State.writePbuf` -/

@[simp] theorem State.writePbuf_params (i : Nat) (b : Byte) : (s.writePbuf i b).params = s.params := rfl
@[simp] theorem State.writePbuf_result (i : Nat) (b : Byte) : (s.writePbuf i b).result = s.result := rfl
@[simp] theorem State.writePbuf_phase (i : Nat) (b : Byte) : (s.writePbuf i b).phase = s.phase := rfl
@[simp] theorem State.writePbuf_initDone (i : Nat) (b : Byte) : (s.writePbuf i b).initDone = s.initDone := rfl
@[simp] theorem State.writePbuf_mode (i : Nat) (b : Byte) : (s.writePbuf i b).mode = s.mode := rfl
@[simp] theorem State.writePbuf_idleEn (i : Nat) (b : Byte) : (s.writePbuf i b).idleEn = s.idleEn := rfl
@[simp] theorem State.writePbuf_fault (i : Nat) (b : Byte) : (s.writePbuf i b).fault = s.fault := rfl
@[simp] theorem State.writePbuf_faultCode (i : Nat) (b : Byte) : (s.writePbuf i b).faultCode = s.faultCode := rfl
@[simp] theorem State.writePbuf_pbuf (i : Nat) (b : Byte) : (s.writePbuf i b).pbuf = Memory.write s.pbuf i b := rfl
@[simp] theorem State.writePbuf_wb (i : Nat) (b : Byte) : (s.writePbuf i b).wb = s.wb := rfl
@[simp] theorem State.writePbuf_curOp (i : Nat) (b : Byte) : (s.writePbuf i b).curOp = s.curOp := rfl
@[simp] theorem State.writePbuf_curN (i : Nat) (b : Byte) : (s.writePbuf i b).curN = s.curN := rfl
@[simp] theorem State.writePbuf_curFlen (i : Nat) (b : Byte) : (s.writePbuf i b).curFlen = s.curFlen := rfl
@[simp] theorem State.writePbuf_tcall (i : Nat) (b : Byte) : (s.writePbuf i b).tcall = s.tcall := rfl
@[simp] theorem State.writePbuf_lrcAcc (i : Nat) (b : Byte) : (s.writePbuf i b).lrcAcc = s.lrcAcc := rfl
@[simp] theorem State.writePbuf_crcReg (i : Nat) (b : Byte) : (s.writePbuf i b).crcReg = s.crcReg := rfl
@[simp] theorem State.writePbuf_hexErr (i : Nat) (b : Byte) : (s.writePbuf i b).hexErr = s.hexErr := rfl
@[simp] theorem State.writePbuf_m1 (i : Nat) (b : Byte) : (s.writePbuf i b).m1 = s.m1 := rfl
@[simp] theorem State.writePbuf_refused (i : Nat) (b : Byte) : (s.writePbuf i b).refused = s.refused := rfl
@[simp] theorem State.writePbuf_inputs (i : Nat) (b : Byte) : (s.writePbuf i b).inputs = s.inputs := rfl
@[simp] theorem State.writePbuf_readData (i : Nat) (b : Byte) : (s.writePbuf i b).readData = s.readData := rfl
@[simp] theorem State.writePbuf_draws (i : Nat) (b : Byte) : (s.writePbuf i b).draws = s.draws := rfl

/-! `State.respond` -/

@[simp] theorem State.respond_params (d : Word) : (s.respond d).params = s.params := rfl
@[simp] theorem State.respond_result (d : Word) : (s.respond d).result = s.result := rfl
@[simp] theorem State.respond_phase (d : Word) : (s.respond d).phase = s.phase := rfl
@[simp] theorem State.respond_initDone (d : Word) : (s.respond d).initDone = s.initDone := rfl
@[simp] theorem State.respond_mode (d : Word) : (s.respond d).mode = s.mode := rfl
@[simp] theorem State.respond_idleEn (d : Word) : (s.respond d).idleEn = s.idleEn := rfl
@[simp] theorem State.respond_fault (d : Word) : (s.respond d).fault = s.fault := rfl
@[simp] theorem State.respond_faultCode (d : Word) : (s.respond d).faultCode = s.faultCode := rfl
@[simp] theorem State.respond_pbuf (d : Word) : (s.respond d).pbuf = s.pbuf := rfl
@[simp] theorem State.respond_wb (d : Word) : (s.respond d).wb = s.wb := rfl
@[simp] theorem State.respond_curOp (d : Word) : (s.respond d).curOp = s.curOp := rfl
@[simp] theorem State.respond_curN (d : Word) : (s.respond d).curN = s.curN := rfl
@[simp] theorem State.respond_curFlen (d : Word) : (s.respond d).curFlen = s.curFlen := rfl
@[simp] theorem State.respond_tcall (d : Word) : (s.respond d).tcall = s.tcall := rfl
@[simp] theorem State.respond_lrcAcc (d : Word) : (s.respond d).lrcAcc = s.lrcAcc := rfl
@[simp] theorem State.respond_crcReg (d : Word) : (s.respond d).crcReg = s.crcReg := rfl
@[simp] theorem State.respond_hexErr (d : Word) : (s.respond d).hexErr = s.hexErr := rfl
@[simp] theorem State.respond_m1 (d : Word) : (s.respond d).m1 = s.m1 := rfl
@[simp] theorem State.respond_refused (d : Word) : (s.respond d).refused = s.refused := rfl
@[simp] theorem State.respond_inputs (d : Word) : (s.respond d).inputs = s.inputs := rfl
@[simp] theorem State.respond_readData (d : Word) : (s.respond d).readData = d := rfl
@[simp] theorem State.respond_draws (d : Word) : (s.respond d).draws = s.draws := rfl

/-! `State.draw` -/

@[simp] theorem State.draw_params (k : Nat) : (s.draw k).params = s.params := rfl
@[simp] theorem State.draw_result (k : Nat) : (s.draw k).result = s.result := rfl
@[simp] theorem State.draw_phase (k : Nat) : (s.draw k).phase = s.phase := rfl
@[simp] theorem State.draw_initDone (k : Nat) : (s.draw k).initDone = s.initDone := rfl
@[simp] theorem State.draw_mode (k : Nat) : (s.draw k).mode = s.mode := rfl
@[simp] theorem State.draw_idleEn (k : Nat) : (s.draw k).idleEn = s.idleEn := rfl
@[simp] theorem State.draw_fault (k : Nat) : (s.draw k).fault = s.fault := rfl
@[simp] theorem State.draw_faultCode (k : Nat) : (s.draw k).faultCode = s.faultCode := rfl
@[simp] theorem State.draw_pbuf (k : Nat) : (s.draw k).pbuf = s.pbuf := rfl
@[simp] theorem State.draw_wb (k : Nat) : (s.draw k).wb = s.wb := rfl
@[simp] theorem State.draw_curOp (k : Nat) : (s.draw k).curOp = s.curOp := rfl
@[simp] theorem State.draw_curN (k : Nat) : (s.draw k).curN = s.curN := rfl
@[simp] theorem State.draw_curFlen (k : Nat) : (s.draw k).curFlen = s.curFlen := rfl
@[simp] theorem State.draw_tcall (k : Nat) : (s.draw k).tcall = s.tcall := rfl
@[simp] theorem State.draw_lrcAcc (k : Nat) : (s.draw k).lrcAcc = s.lrcAcc := rfl
@[simp] theorem State.draw_crcReg (k : Nat) : (s.draw k).crcReg = s.crcReg := rfl
@[simp] theorem State.draw_hexErr (k : Nat) : (s.draw k).hexErr = s.hexErr := rfl
@[simp] theorem State.draw_m1 (k : Nat) : (s.draw k).m1 = s.m1 := rfl
@[simp] theorem State.draw_refused (k : Nat) : (s.draw k).refused = s.refused := rfl
@[simp] theorem State.draw_inputs (k : Nat) : (s.draw k).inputs = s.inputs := rfl
@[simp] theorem State.draw_readData (k : Nat) : (s.draw k).readData = s.readData := rfl
@[simp] theorem State.draw_draws (k : Nat) : (s.draw k).draws = s.draws + k := rfl

/-! `State.recordM1` -/

@[simp] theorem State.recordM1_params (due : Bool) : (s.recordM1 due).params = s.params := rfl
@[simp] theorem State.recordM1_result (due : Bool) : (s.recordM1 due).result = s.result := rfl
@[simp] theorem State.recordM1_phase (due : Bool) : (s.recordM1 due).phase = s.phase := rfl
@[simp] theorem State.recordM1_initDone (due : Bool) : (s.recordM1 due).initDone = s.initDone := rfl
@[simp] theorem State.recordM1_mode (due : Bool) : (s.recordM1 due).mode = s.mode := rfl
@[simp] theorem State.recordM1_idleEn (due : Bool) : (s.recordM1 due).idleEn = s.idleEn := rfl
@[simp] theorem State.recordM1_fault (due : Bool) : (s.recordM1 due).fault = s.fault := rfl
@[simp] theorem State.recordM1_faultCode (due : Bool) : (s.recordM1 due).faultCode = s.faultCode := rfl
@[simp] theorem State.recordM1_pbuf (due : Bool) : (s.recordM1 due).pbuf = s.pbuf := rfl
@[simp] theorem State.recordM1_wb (due : Bool) : (s.recordM1 due).wb = s.wb := rfl
@[simp] theorem State.recordM1_curOp (due : Bool) : (s.recordM1 due).curOp = s.curOp := rfl
@[simp] theorem State.recordM1_curN (due : Bool) : (s.recordM1 due).curN = s.curN := rfl
@[simp] theorem State.recordM1_curFlen (due : Bool) : (s.recordM1 due).curFlen = s.curFlen := rfl
@[simp] theorem State.recordM1_tcall (due : Bool) : (s.recordM1 due).tcall = s.tcall := rfl
@[simp] theorem State.recordM1_lrcAcc (due : Bool) : (s.recordM1 due).lrcAcc = s.lrcAcc := rfl
@[simp] theorem State.recordM1_crcReg (due : Bool) : (s.recordM1 due).crcReg = s.crcReg := rfl
@[simp] theorem State.recordM1_hexErr (due : Bool) : (s.recordM1 due).hexErr = s.hexErr := rfl
@[simp] theorem State.recordM1_m1 (due : Bool) : (s.recordM1 due).m1 = (s.m1 || due) := rfl
@[simp] theorem State.recordM1_refused (due : Bool) : (s.recordM1 due).refused = s.refused := rfl
@[simp] theorem State.recordM1_inputs (due : Bool) : (s.recordM1 due).inputs = s.inputs := rfl
@[simp] theorem State.recordM1_readData (due : Bool) : (s.recordM1 due).readData = s.readData := rfl
@[simp] theorem State.recordM1_draws (due : Bool) : (s.recordM1 due).draws = s.draws := rfl

/-! `State.markRefused` -/

@[simp] theorem State.markRefused_params : s.markRefused.params = s.params := rfl
@[simp] theorem State.markRefused_result : s.markRefused.result = s.result := rfl
@[simp] theorem State.markRefused_phase : s.markRefused.phase = s.phase := rfl
@[simp] theorem State.markRefused_initDone : s.markRefused.initDone = s.initDone := rfl
@[simp] theorem State.markRefused_mode : s.markRefused.mode = s.mode := rfl
@[simp] theorem State.markRefused_idleEn : s.markRefused.idleEn = s.idleEn := rfl
@[simp] theorem State.markRefused_fault : s.markRefused.fault = s.fault := rfl
@[simp] theorem State.markRefused_faultCode : s.markRefused.faultCode = s.faultCode := rfl
@[simp] theorem State.markRefused_pbuf : s.markRefused.pbuf = s.pbuf := rfl
@[simp] theorem State.markRefused_wb : s.markRefused.wb = s.wb := rfl
@[simp] theorem State.markRefused_curOp : s.markRefused.curOp = s.curOp := rfl
@[simp] theorem State.markRefused_curN : s.markRefused.curN = s.curN := rfl
@[simp] theorem State.markRefused_curFlen : s.markRefused.curFlen = s.curFlen := rfl
@[simp] theorem State.markRefused_tcall : s.markRefused.tcall = s.tcall := rfl
@[simp] theorem State.markRefused_lrcAcc : s.markRefused.lrcAcc = s.lrcAcc := rfl
@[simp] theorem State.markRefused_crcReg : s.markRefused.crcReg = s.crcReg := rfl
@[simp] theorem State.markRefused_hexErr : s.markRefused.hexErr = s.hexErr := rfl
@[simp] theorem State.markRefused_m1 : s.markRefused.m1 = s.m1 := rfl
@[simp] theorem State.markRefused_refused : s.markRefused.refused = true := rfl
@[simp] theorem State.markRefused_inputs : s.markRefused.inputs = s.inputs := rfl
@[simp] theorem State.markRefused_readData : s.markRefused.readData = s.readData := rfl
@[simp] theorem State.markRefused_draws : s.markRefused.draws = s.draws := rfl

/-! `State.withInputs` -/

@[simp] theorem State.withInputs_params (is : List Input) : (s.withInputs is).params = s.params := rfl
@[simp] theorem State.withInputs_result (is : List Input) : (s.withInputs is).result = s.result := rfl
@[simp] theorem State.withInputs_phase (is : List Input) : (s.withInputs is).phase = s.phase := rfl
@[simp] theorem State.withInputs_initDone (is : List Input) : (s.withInputs is).initDone = s.initDone := rfl
@[simp] theorem State.withInputs_mode (is : List Input) : (s.withInputs is).mode = s.mode := rfl
@[simp] theorem State.withInputs_idleEn (is : List Input) : (s.withInputs is).idleEn = s.idleEn := rfl
@[simp] theorem State.withInputs_fault (is : List Input) : (s.withInputs is).fault = s.fault := rfl
@[simp] theorem State.withInputs_faultCode (is : List Input) : (s.withInputs is).faultCode = s.faultCode := rfl
@[simp] theorem State.withInputs_pbuf (is : List Input) : (s.withInputs is).pbuf = s.pbuf := rfl
@[simp] theorem State.withInputs_wb (is : List Input) : (s.withInputs is).wb = s.wb := rfl
@[simp] theorem State.withInputs_curOp (is : List Input) : (s.withInputs is).curOp = s.curOp := rfl
@[simp] theorem State.withInputs_curN (is : List Input) : (s.withInputs is).curN = s.curN := rfl
@[simp] theorem State.withInputs_curFlen (is : List Input) : (s.withInputs is).curFlen = s.curFlen := rfl
@[simp] theorem State.withInputs_tcall (is : List Input) : (s.withInputs is).tcall = s.tcall := rfl
@[simp] theorem State.withInputs_lrcAcc (is : List Input) : (s.withInputs is).lrcAcc = s.lrcAcc := rfl
@[simp] theorem State.withInputs_crcReg (is : List Input) : (s.withInputs is).crcReg = s.crcReg := rfl
@[simp] theorem State.withInputs_hexErr (is : List Input) : (s.withInputs is).hexErr = s.hexErr := rfl
@[simp] theorem State.withInputs_m1 (is : List Input) : (s.withInputs is).m1 = s.m1 := rfl
@[simp] theorem State.withInputs_refused (is : List Input) : (s.withInputs is).refused = s.refused := rfl
@[simp] theorem State.withInputs_inputs (is : List Input) : (s.withInputs is).inputs = is := rfl
@[simp] theorem State.withInputs_readData (is : List Input) : (s.withInputs is).readData = s.readData := rfl
@[simp] theorem State.withInputs_draws (is : List Input) : (s.withInputs is).draws = s.draws := rfl

/-! `State.endCall` -/

@[simp] theorem State.endCall_params (res : ProtocolResult) : (s.endCall res).params = s.params := rfl
@[simp] theorem State.endCall_result (res : ProtocolResult) : (s.endCall res).result = res := rfl
@[simp] theorem State.endCall_phase (res : ProtocolResult) : (s.endCall res).phase = .ready := rfl
@[simp] theorem State.endCall_initDone (res : ProtocolResult) : (s.endCall res).initDone = s.initDone := rfl
@[simp] theorem State.endCall_mode (res : ProtocolResult) : (s.endCall res).mode = s.mode := rfl
@[simp] theorem State.endCall_idleEn (res : ProtocolResult) : (s.endCall res).idleEn = s.idleEn := rfl
@[simp] theorem State.endCall_fault (res : ProtocolResult) : (s.endCall res).fault = s.fault := rfl
@[simp] theorem State.endCall_faultCode (res : ProtocolResult) : (s.endCall res).faultCode = s.faultCode := rfl
@[simp] theorem State.endCall_pbuf (res : ProtocolResult) : (s.endCall res).pbuf = s.pbuf := rfl
@[simp] theorem State.endCall_wb (res : ProtocolResult) : (s.endCall res).wb = [] := rfl
@[simp] theorem State.endCall_curOp (res : ProtocolResult) : (s.endCall res).curOp = s.curOp := rfl
@[simp] theorem State.endCall_curN (res : ProtocolResult) : (s.endCall res).curN = s.curN := rfl
@[simp] theorem State.endCall_curFlen (res : ProtocolResult) : (s.endCall res).curFlen = s.curFlen := rfl
@[simp] theorem State.endCall_tcall (res : ProtocolResult) : (s.endCall res).tcall = s.tcall := rfl
@[simp] theorem State.endCall_lrcAcc (res : ProtocolResult) : (s.endCall res).lrcAcc = s.lrcAcc := rfl
@[simp] theorem State.endCall_crcReg (res : ProtocolResult) : (s.endCall res).crcReg = s.crcReg := rfl
@[simp] theorem State.endCall_hexErr (res : ProtocolResult) : (s.endCall res).hexErr = s.hexErr := rfl
@[simp] theorem State.endCall_m1 (res : ProtocolResult) : (s.endCall res).m1 = s.m1 := rfl
@[simp] theorem State.endCall_refused (res : ProtocolResult) : (s.endCall res).refused = s.refused := rfl
@[simp] theorem State.endCall_inputs (res : ProtocolResult) : (s.endCall res).inputs = s.inputs := rfl
@[simp] theorem State.endCall_readData (res : ProtocolResult) : (s.endCall res).readData = s.readData := rfl
@[simp] theorem State.endCall_draws (res : ProtocolResult) : (s.endCall res).draws = s.draws := rfl

/-! `State.afterSnapshot`, `State.afterEncode`, `State.afterDecode`: the fields they leave alone -/

@[simp] theorem State.afterSnapshot_params (n : Nat) : (s.afterSnapshot n).params = s.params := rfl
@[simp] theorem State.afterSnapshot_result (n : Nat) : (s.afterSnapshot n).result = s.result := rfl
@[simp] theorem State.afterSnapshot_phase (n : Nat) : (s.afterSnapshot n).phase = s.phase := rfl
@[simp] theorem State.afterSnapshot_initDone (n : Nat) : (s.afterSnapshot n).initDone = s.initDone := rfl
@[simp] theorem State.afterSnapshot_mode (n : Nat) : (s.afterSnapshot n).mode = s.mode := rfl
@[simp] theorem State.afterSnapshot_idleEn (n : Nat) : (s.afterSnapshot n).idleEn = s.idleEn := rfl
@[simp] theorem State.afterSnapshot_fault (n : Nat) : (s.afterSnapshot n).fault = s.fault := rfl
@[simp] theorem State.afterSnapshot_faultCode (n : Nat) : (s.afterSnapshot n).faultCode = s.faultCode := rfl
@[simp] theorem State.afterSnapshot_pbuf (n : Nat) : (s.afterSnapshot n).pbuf = s.pbuf := rfl
@[simp] theorem State.afterSnapshot_wb (n : Nat) : (s.afterSnapshot n).wb = s.wb := rfl
@[simp] theorem State.afterSnapshot_curOp (n : Nat) : (s.afterSnapshot n).curOp = s.curOp := rfl
@[simp] theorem State.afterSnapshot_curN (n : Nat) : (s.afterSnapshot n).curN = s.curN := rfl
@[simp] theorem State.afterSnapshot_curFlen (n : Nat) : (s.afterSnapshot n).curFlen = s.curFlen := rfl
@[simp] theorem State.afterSnapshot_tcall (n : Nat) : (s.afterSnapshot n).tcall = s.tcall := rfl
@[simp] theorem State.afterSnapshot_lrcAcc (n : Nat) : (s.afterSnapshot n).lrcAcc = s.lrcAcc := rfl
@[simp] theorem State.afterSnapshot_crcReg (n : Nat) : (s.afterSnapshot n).crcReg = s.crcReg := rfl
@[simp] theorem State.afterSnapshot_hexErr (n : Nat) : (s.afterSnapshot n).hexErr = s.hexErr := rfl
@[simp] theorem State.afterSnapshot_refused (n : Nat) : (s.afterSnapshot n).refused = s.refused := rfl
@[simp] theorem State.afterSnapshot_inputs (n : Nat) : (s.afterSnapshot n).inputs = s.inputs := rfl
@[simp] theorem State.afterSnapshot_readData (n : Nat) : (s.afterSnapshot n).readData = s.readData := rfl
@[simp] theorem State.afterEncode_params (p : List Byte) : (s.afterEncode p).params = s.params := by
  unfold State.afterEncode; split <;> rfl
@[simp] theorem State.afterEncode_result (p : List Byte) : (s.afterEncode p).result = s.result := by
  unfold State.afterEncode; split <;> rfl
@[simp] theorem State.afterEncode_phase (p : List Byte) : (s.afterEncode p).phase = s.phase := by
  unfold State.afterEncode; split <;> rfl
@[simp] theorem State.afterEncode_initDone (p : List Byte) : (s.afterEncode p).initDone = s.initDone := by
  unfold State.afterEncode; split <;> rfl
@[simp] theorem State.afterEncode_mode (p : List Byte) : (s.afterEncode p).mode = s.mode := by
  unfold State.afterEncode; split <;> rfl
@[simp] theorem State.afterEncode_idleEn (p : List Byte) : (s.afterEncode p).idleEn = s.idleEn := by
  unfold State.afterEncode; split <;> rfl
@[simp] theorem State.afterEncode_fault (p : List Byte) : (s.afterEncode p).fault = s.fault := by
  unfold State.afterEncode; split <;> rfl
@[simp] theorem State.afterEncode_faultCode (p : List Byte) : (s.afterEncode p).faultCode = s.faultCode := by
  unfold State.afterEncode; split <;> rfl
@[simp] theorem State.afterEncode_pbuf (p : List Byte) : (s.afterEncode p).pbuf = s.pbuf := by
  unfold State.afterEncode; split <;> rfl
@[simp] theorem State.afterEncode_wb (p : List Byte) : (s.afterEncode p).wb = s.wb := by
  unfold State.afterEncode; split <;> rfl
@[simp] theorem State.afterEncode_curOp (p : List Byte) : (s.afterEncode p).curOp = s.curOp := by
  unfold State.afterEncode; split <;> rfl
@[simp] theorem State.afterEncode_curN (p : List Byte) : (s.afterEncode p).curN = s.curN := by
  unfold State.afterEncode; split <;> rfl
@[simp] theorem State.afterEncode_curFlen (p : List Byte) : (s.afterEncode p).curFlen = s.curFlen := by
  unfold State.afterEncode; split <;> rfl
@[simp] theorem State.afterEncode_tcall (p : List Byte) : (s.afterEncode p).tcall = s.tcall := by
  unfold State.afterEncode; split <;> rfl
@[simp] theorem State.afterEncode_hexErr (p : List Byte) : (s.afterEncode p).hexErr = s.hexErr := by
  unfold State.afterEncode; split <;> rfl
@[simp] theorem State.afterEncode_m1 (p : List Byte) : (s.afterEncode p).m1 = s.m1 := by
  unfold State.afterEncode; split <;> rfl
@[simp] theorem State.afterEncode_refused (p : List Byte) : (s.afterEncode p).refused = s.refused := by
  unfold State.afterEncode; split <;> rfl
@[simp] theorem State.afterEncode_inputs (p : List Byte) : (s.afterEncode p).inputs = s.inputs := by
  unfold State.afterEncode; split <;> rfl
@[simp] theorem State.afterEncode_readData (p : List Byte) : (s.afterEncode p).readData = s.readData := by
  unfold State.afterEncode; split <;> rfl
@[simp] theorem State.afterEncode_draws (p : List Byte) : (s.afterEncode p).draws = s.draws := by
  unfold State.afterEncode; split <;> rfl
@[simp] theorem State.afterDecode_params (fr : List Byte) (n : Nat) : (s.afterDecode fr n).params = s.params := by
  unfold State.afterDecode; repeat' split
  all_goals rfl
@[simp] theorem State.afterDecode_result (fr : List Byte) (n : Nat) : (s.afterDecode fr n).result = s.result := by
  unfold State.afterDecode; repeat' split
  all_goals rfl
@[simp] theorem State.afterDecode_phase (fr : List Byte) (n : Nat) : (s.afterDecode fr n).phase = s.phase := by
  unfold State.afterDecode; repeat' split
  all_goals rfl
@[simp] theorem State.afterDecode_initDone (fr : List Byte) (n : Nat) : (s.afterDecode fr n).initDone = s.initDone := by
  unfold State.afterDecode; repeat' split
  all_goals rfl
@[simp] theorem State.afterDecode_mode (fr : List Byte) (n : Nat) : (s.afterDecode fr n).mode = s.mode := by
  unfold State.afterDecode; repeat' split
  all_goals rfl
@[simp] theorem State.afterDecode_idleEn (fr : List Byte) (n : Nat) : (s.afterDecode fr n).idleEn = s.idleEn := by
  unfold State.afterDecode; repeat' split
  all_goals rfl
@[simp] theorem State.afterDecode_fault (fr : List Byte) (n : Nat) : (s.afterDecode fr n).fault = s.fault := by
  unfold State.afterDecode; repeat' split
  all_goals rfl
@[simp] theorem State.afterDecode_faultCode (fr : List Byte) (n : Nat) : (s.afterDecode fr n).faultCode = s.faultCode := by
  unfold State.afterDecode; repeat' split
  all_goals rfl
@[simp] theorem State.afterDecode_pbuf (fr : List Byte) (n : Nat) : (s.afterDecode fr n).pbuf = s.pbuf := by
  unfold State.afterDecode; repeat' split
  all_goals rfl
@[simp] theorem State.afterDecode_wb (fr : List Byte) (n : Nat) : (s.afterDecode fr n).wb = s.wb := by
  unfold State.afterDecode; repeat' split
  all_goals rfl
@[simp] theorem State.afterDecode_curOp (fr : List Byte) (n : Nat) : (s.afterDecode fr n).curOp = s.curOp := by
  unfold State.afterDecode; repeat' split
  all_goals rfl
@[simp] theorem State.afterDecode_curN (fr : List Byte) (n : Nat) : (s.afterDecode fr n).curN = s.curN := by
  unfold State.afterDecode; repeat' split
  all_goals rfl
@[simp] theorem State.afterDecode_curFlen (fr : List Byte) (n : Nat) : (s.afterDecode fr n).curFlen = s.curFlen := by
  unfold State.afterDecode; repeat' split
  all_goals rfl
@[simp] theorem State.afterDecode_tcall (fr : List Byte) (n : Nat) : (s.afterDecode fr n).tcall = s.tcall := by
  unfold State.afterDecode; repeat' split
  all_goals rfl
@[simp] theorem State.afterDecode_m1 (fr : List Byte) (n : Nat) : (s.afterDecode fr n).m1 = s.m1 := by
  unfold State.afterDecode; repeat' split
  all_goals rfl
@[simp] theorem State.afterDecode_refused (fr : List Byte) (n : Nat) : (s.afterDecode fr n).refused = s.refused := by
  unfold State.afterDecode; repeat' split
  all_goals rfl
@[simp] theorem State.afterDecode_inputs (fr : List Byte) (n : Nat) : (s.afterDecode fr n).inputs = s.inputs := by
  unfold State.afterDecode; repeat' split
  all_goals rfl
@[simp] theorem State.afterDecode_readData (fr : List Byte) (n : Nat) : (s.afterDecode fr n).readData = s.readData := by
  unfold State.afterDecode; repeat' split
  all_goals rfl
@[simp] theorem State.afterDecode_draws (fr : List Byte) (n : Nat) : (s.afterDecode fr n).draws = s.draws := by
  unfold State.afterDecode; repeat' split
  all_goals rfl

/-! BUSY and the STATUS word -/

theorem State.busy_iff : s.busy = true ↔ s.phase ≠ .ready := by
  unfold State.busy; cases s.phase <;> decide

theorem State.busy_false_iff : s.busy = false ↔ s.phase = .ready := by
  unfold State.busy; cases s.phase <;> decide

@[simp] theorem State.raiseFault_busy (k : FaultCode) : (s.raiseFault k).busy = s.busy := rfl
@[simp] theorem State.withInputs_busy (is : List Input) : (s.withInputs is).busy = s.busy := rfl
@[simp] theorem State.finish_busy (res : ProtocolResult) : (s.finish res).busy = false := rfl
@[simp] theorem State.withInputs_withInputs (is js : List Input) : (s.withInputs is).withInputs js = s.withInputs js := rfl
@[simp] theorem State.withInputs_statusWord (is : List Input) : (s.withInputs is).statusWord = s.statusWord := rfl
@[simp] theorem State.withInputs_self : s.withInputs s.inputs = s := rfl

end Sys2Proof.Machine
end

