-- ==== Sys2Proof/Laws/Commands.lean ====
section
/-! SUPPORT. What the frames and the frame length are, and what REQUEST_WRITE and a received frame leave. -/

namespace Sys2Proof.Machine

theorem flen_ge (m : Mode) (n : Nat) : n + 2 ≤ flen m n := by
  cases m <;> simp only [flen] <;> omega

theorem flen_le (m : Mode) (n : Nat) : flen m n ≤ 2 * n + 5 := by
  cases m <;> simp only [flen] <;> omega

/-- The frame has the length computed for it (41_commands.md R140, R141). -/
@[simp] theorem encodeFrame_length (m : Mode) (p : List Byte) : (encodeFrame m p).length = flen m p.length := by
  cases m <;> simp [encodeFrame, flen]

/-- A payload that is Ok has the expected length (42_ascii_codec.md R165, 43_rtu_codec.md R194). -/
theorem decodeFrame_ok_length {x : Byte} {m : Mode} {f q : List Byte} {n : Nat} (hl : f.length = flen m n)
    (h : decodeFrame x m f n = .ok q) : q.length = n := by
  cases m with
  | ascii =>
    simp only [decodeFrame, asciiDecode] at h
    split at h
    · split at h
      · rename_i hh
        cases h
        simp only [asciiHexErr, Bool.or_eq_false_iff] at hh
        exact (hexPairs_of_hexBytes hh.1.1).2
      · cases h
    · cases h
  | rtu =>
    simp only [decodeFrame, rtuDecode] at h
    split at h
    · cases h
      simp only [flen] at hl
      simp only [List.length_take]
      omega
    · cases h

/-- Parameters that satisfy 00_scope.md R9 give LEN at most 16 bits, so WB_CAP is below 2^16. -/
theorem wbCap_le {p : Config.Params} (h : p.Ok) : p.wbCap ≤ 2 ^ Config.lenWidth - 1 := by
  have := Nat.pow_le_pow_right (n := 2) (by decide) h.2.2
  have := h.2.1
  omega

/-- A frame that fits under 00_scope.md R9 is latched without wrap (10_state.md R38). -/
theorem latch_exact {m : Mode} {n cap : Nat} (h : flen m n ≤ cap) (hc : cap ≤ 2 ^ Config.lenWidth - 1) :
    (BitVec.ofNat 16 n).toNat = n ∧ (BitVec.ofNat 18 (flen m n)).toNat = flen m n := by
  have h1 := flen_ge m n
  have h2 := flen_le m n
  simp only [Config.lenWidth] at hc
  constructor <;> simp only [BitVec.toNat_ofNat] <;> omega

@[simp] theorem payload_length (n : Nat) (s : State) : (s.payload n).length = n := Memory.snapshot_length ..

/-- A payload whose cells all hold a value is read as it stands, and reading it leaves nothing (20_memory.md R53). -/
theorem payload_eq {s : State} {p : List Byte} (h : ∀ i, i < p.length → Memory.read s.pbuf i = p[i]?) :
    s.payload p.length = p ∧ s.afterSnapshot p.length = s := by
  have hm : Memory.missing s.pbuf 0 p.length = 0 := by
    rw [Memory.missing_eq_zero_iff]
    intro i hi
    simp [h i hi, hi]
  refine ⟨Memory.snapshot_eq _ (by simpa using h), ?_⟩
  ext1 <;> simp [State.afterSnapshot, hm]

theorem sendFrame_wb (n : Nat) (s : State) :
    (s.sendFrame n).wb = Memory.store s.wb 0 (encodeFrame s.mode (s.payload n)) := by
  simp [State.sendFrame]

/-- The frame staged in WB is what the transport is asked to write (41_commands.md R140, R141). -/
theorem staged_frame (m : Memory) (md : Mode) (p : List Byte) :
    Memory.bytes (Memory.store m 0 (encodeFrame md p)) 0 (flen md p.length) = encodeFrame md p := by
  have := Memory.bytes_store m 0 (encodeFrame md p)
  rwa [encodeFrame_length] at this

theorem sendFrame_tcall (n : Nat) (s : State) :
    (s.sendFrame n).tcall =
      some (.write (encodeFrame s.mode (s.payload n)) (flen s.mode n) s.params.busTimeoutMs) := by
  have := staged_frame s.wb s.mode (s.payload n)
  rw [payload_length] at this
  simp [State.sendFrame, this]

/-- A frame of CUR_FLEN bytes is decoded as it was received (41_commands.md R142, R143). -/
theorem frameReceived_eq {s : State} {r : List Byte} (h : r.length = s.curFlen.toNat) :
    s.frameReceived r =
      ((s.closeCall.stageFrame r).afterDecode r s.curN.toNat).conclude s.curN.toNat
        (decodeFrame s.params.hexSentinel s.mode r s.curN.toNat) := by
  have hf : Memory.bytes (State.stageFrame r s.closeCall).wb 0 s.curFlen.toNat = r := by
    rw [← h]
    exact Memory.bytes_store ..
  simp only [State.frameReceived, hf]

end Sys2Proof.Machine
end

