-- ==== Sys2Proof/Laws/PerInstr.lean ====
section
/-! SUPPORT. Laws stated of every instruction, one lemma per constructor. -/

namespace Sys2Proof.Laws

/-- Every bit of a command word with LEN field `n`, by its index. -/
theorem commandWord_getLsbD (opc : BitVec 4) (idle mode : Bool) (len : Half) (i : Nat) :
    (commandWord opc idle mode len).getLsbD i =
      if i < 16 then len.getLsbD i
      else if i = 16 then mode
      else if i = 17 then idle
      else if i < 28 then false
      else opc.getLsbD (i - 28) := by
  unfold commandWord
  simp only [BitVec.getLsbD_append, BitVec.getLsbD_ofBool]
  by_cases h1 : i < 16
  · simp [h1]
  · by_cases h2 : i = 16
    · subst h2; simp
    · by_cases h3 : i = 17
      · subst h3; simp
      · have e1 : ¬ i - 16 < 1 := by omega
        have e2 : ¬ i - 16 - 1 < 1 := by omega
        by_cases h4 : i < 28
        · have e3 : i - 16 - 1 - 1 < 10 := by omega
          simp [h1, h2, h3, h4, e1, e2, e3]
        · have e3 : ¬ i - 16 - 1 - 1 < 10 := by omega
          have e4 : i - 16 - 1 - 1 - 10 = i - 28 := by omega
          simp [h1, h2, h3, h4, e1, e2, e3, e4]

theorem fieldOpc_commandWord (opc : BitVec 4) (idle mode : Bool) (len : Half) :
    fieldOpc (commandWord opc idle mode len) = opc := by
  refine BitVec.eq_of_getLsbD_eq fun i hi => ?_
  simp only [fieldOpc, BitVec.getLsbD_extractLsb', commandWord_getLsbD]
  rw [if_neg (by omega), if_neg (by omega), if_neg (by omega), if_neg (by omega), Nat.add_sub_cancel_left]
  simp [hi]

theorem fieldIdle_commandWord (opc : BitVec 4) (idle mode : Bool) (len : Half) :
    fieldIdle (commandWord opc idle mode len) = idle := by
  rw [fieldIdle, commandWord_getLsbD]; rfl

theorem fieldMode_commandWord (opc : BitVec 4) (idle mode : Bool) (len : Half) :
    fieldMode (commandWord opc idle mode len) = if mode then .rtu else .ascii := by
  rw [fieldMode, commandWord_getLsbD]; rfl

theorem fieldLen_commandWord (opc : BitVec 4) (idle mode : Bool) (len : Half) :
    fieldLen (commandWord opc idle mode len) = len.toNat := by
  have : (commandWord opc idle mode len).extractLsb' 0 16 = len := by
    refine BitVec.eq_of_getLsbD_eq fun i hi => ?_
    simp only [BitVec.getLsbD_extractLsb', commandWord_getLsbD]
    simp [hi]
  simp [fieldLen, this]

/-- The must-be-zero bits [27:16] of a word without IDLE_EN and MODE are 0 (30_encoding.md R82). -/
theorem commandWord_reserved (opc : BitVec 4) (len : Half) :
    commandWord opc false false len &&& 0x0FFF0000#32 = 0#32 := by
  refine BitVec.eq_of_getLsbD_eq fun i hi => ?_
  rw [BitVec.getLsbD_and, commandWord_getLsbD, BitVec.getLsbD_zero]
  have mask : ∀ j : Fin 32, (0x0FFF0000#32).getLsbD j = (decide (16 ≤ j.val) && decide (j.val < 28)) := by decide
  rw [mask ⟨i, hi⟩]
  by_cases h : i < 16
  · simp; omega
  · by_cases h' : i < 28 <;> simp [h, h']

/-- What the fields of an encoded instruction hold: its opcode, its operands, and 0 in every must-be-zero bit
(30_encoding.md R80-R82). -/
def EncodedFields.Statement (i : Instr) : Prop :=
  match i with
  | .init m b =>
    fieldOpc (encode i) = 0x0#4 ∧ encode i &&& 0xFFFCFFFF#32 = 0#32 ∧ fieldMode (encode i) = m ∧ fieldIdle (encode i) = b
  | .requestWrite n =>
    i.WellFormed → fieldOpc (encode i) = 0x1#4 ∧ encode i &&& 0x0FFF0000#32 = 0#32 ∧ fieldLen (encode i) = n
  | .answerRead n =>
    i.WellFormed → fieldOpc (encode i) = 0x2#4 ∧ encode i &&& 0x0FFF0000#32 = 0#32 ∧ fieldLen (encode i) = n

theorem EncodedFields.init (m : Mode) (b : Bool) : EncodedFields.Statement (.init m b) := by
  unfold EncodedFields.Statement
  revert b; cases m <;> decide

theorem EncodedFields.requestWrite (n : Nat) : EncodedFields.Statement (.requestWrite n) := fun h =>
  ⟨fieldOpc_commandWord .., commandWord_reserved .., (fieldLen_commandWord ..).trans (Nat.mod_eq_of_lt h)⟩

theorem EncodedFields.answerRead (n : Nat) : EncodedFields.Statement (.answerRead n) := fun h =>
  ⟨fieldOpc_commandWord .., commandWord_reserved .., (fieldLen_commandWord ..).trans (Nat.mod_eq_of_lt h)⟩

end Sys2Proof.Laws
end

