-- ==== Sys2Proof/Laws/Step.lean ====
section
/-! SUPPORT. Everything each shared operation and the step can do, said once: what a command, an answer, a host
access and a step answer. -/

namespace Sys2Proof.Machine

variable {s t : State}

/-- When a transfer command is turned away, and with which fault (41_commands.md R131). -/
theorem transferFault_cases (s : State) :
    (s.phase ≠ .ready ∧ s.transferFault = some .cmdWhileBusy) ∨
    (s.phase = .ready ∧ s.initDone = false ∧ s.transferFault = some .notInitialized) ∨
    (s.phase = .ready ∧ s.initDone = true ∧ s.transferFault = none) := by
  unfold State.transferFault
  by_cases hb : s.phase = .ready
  · have : s.busy = false := s.busy_false_iff.2 hb
    cases hi : s.initDone <;> simp [this, hb]
  · have : s.busy = true := s.busy_iff.2 hb
    simp [this, hb]

theorem transferFault_eq_none (h : s.phase = .ready) (hi : s.initDone = true) : s.transferFault = none := by
  rcases transferFault_cases s with ⟨h', _⟩ | ⟨_, h', _⟩ | ⟨_, _, h'⟩
  · exact absurd h h'
  · rw [hi] at h'; cases h'
  · exact h'

/-- When INIT is turned away, and with which fault (41_commands.md R131). -/
theorem initFault_cases (m : Mode) (b : Bool) (s : State) :
    (s.phase ≠ .ready ∧ s.initFault m b = some .cmdWhileBusy) ∨
    (s.phase = .ready ∧ s.initDone = true ∧ s.initFault m b = some .reinitialize) ∨
    (s.phase = .ready ∧ s.initDone = false ∧ m = .rtu ∧ b = false ∧ s.initFault m b = some .rtuWithoutIdle) ∨
    (s.phase = .ready ∧ s.initDone = false ∧ (m = .rtu → b = true) ∧ s.initFault m b = none) := by
  unfold State.initFault
  by_cases hb : s.phase = .ready
  · have : s.busy = false := s.busy_false_iff.2 hb
    cases hi : s.initDone <;> cases m <;> cases b <;> simp [this, hb]
  · have : s.busy = true := s.busy_iff.2 hb
    simp [this, hb]

/-- Everything INIT can do. -/
theorem execInit_cases (m : Mode) (b : Bool) (s : State) :
    (∃ k, s.initFault m b = some k ∧ execInit m b s = .next (s.raiseFault k)) ∨
    (s.initFault m b = none ∧ execInit m b s = .next (s.configure m b)) := by
  unfold execInit
  cases h : s.initFault m b with
  | none => exact .inr ⟨rfl, rfl⟩
  | some k => exact .inl ⟨k, rfl, rfl⟩

/-- Everything REQUEST_WRITE can do. -/
theorem execRequestWrite_cases (n : Nat) (s : State) :
    (∃ k, s.transferFault = some k ∧ execRequestWrite n s = .next (s.raiseFault k)) ∨
    (s.transferFault = none ∧ s.params.wbCap < flen s.mode n ∧ execRequestWrite n s = .next (s.finish .noBufferSpace)) ∨
    (s.transferFault = none ∧ flen s.mode n ≤ s.params.wbCap ∧ execRequestWrite n s = .next (s.sendFrame n)) := by
  unfold execRequestWrite
  cases h : s.transferFault with
  | some k => exact .inl ⟨k, rfl, rfl⟩
  | none =>
    by_cases hc : s.params.wbCap < flen s.mode n
    · exact .inr (.inl ⟨rfl, hc, by simp [hc]⟩)
    · exact .inr (.inr ⟨rfl, Nat.le_of_not_lt hc, by simp [hc]⟩)

/-- Everything ANSWER_READ can do. -/
theorem execAnswerRead_cases (n : Nat) (s : State) :
    (∃ k, s.transferFault = some k ∧ execAnswerRead n s = .next (s.raiseFault k)) ∨
    (s.transferFault = none ∧ s.params.wbCap < flen s.mode n ∧ execAnswerRead n s = .next (s.finish .noBufferSpace)) ∨
    (s.transferFault = none ∧ flen s.mode n ≤ s.params.wbCap ∧ execAnswerRead n s = .next (s.awaitFrame n)) := by
  unfold execAnswerRead
  cases h : s.transferFault with
  | some k => exact .inl ⟨k, rfl, rfl⟩
  | none =>
    by_cases hc : s.params.wbCap < flen s.mode n
    · exact .inr (.inl ⟨rfl, hc, by simp [hc]⟩)
    · exact .inr (.inr ⟨rfl, Nat.le_of_not_lt hc, by simp [hc]⟩)

/-- Everything a command can do: a recorded fault, NoBufferSpace, INIT's effect, a frame sent or a read issued. -/
theorem exec_cases (i : Instr) (s : State) :
    (∃ k, k ≠ .none ∧ exec i s = .next (s.raiseFault k) ∧
      (s.phase = .ready → ∀ m b, i = .init m b → s.initDone = true ∨ (m = .rtu ∧ b = false)) ∧
      (s.phase = .ready → (∀ m b, i ≠ .init m b) → s.initDone = false)) ∨
    (∃ m b, i = .init m b ∧ s.phase = .ready ∧ s.initDone = false ∧ (m = .rtu → b = true) ∧
      exec i s = .next (s.configure m b)) ∨
    (∃ n, (i = .requestWrite n ∨ i = .answerRead n) ∧ s.phase = .ready ∧ s.initDone = true ∧
      s.params.wbCap < flen s.mode n ∧ exec i s = .next (s.finish .noBufferSpace)) ∨
    (∃ n, i = .requestWrite n ∧ s.phase = .ready ∧ s.initDone = true ∧ flen s.mode n ≤ s.params.wbCap ∧
      exec i s = .next (s.sendFrame n)) ∨
    (∃ n, i = .answerRead n ∧ s.phase = .ready ∧ s.initDone = true ∧ flen s.mode n ≤ s.params.wbCap ∧
      exec i s = .next (s.awaitFrame n)) := by
  cases i with
  | init m b =>
    rcases execInit_cases m b s with ⟨k, hk, h⟩ | ⟨hk, h⟩
    · refine .inl ⟨k, ?_, h, ?_, fun _ h => absurd rfl (h m b)⟩ <;>
        rcases initFault_cases m b s with ⟨_, h'⟩ | ⟨_, _, h'⟩ | ⟨_, _, _, _, h'⟩ | ⟨_, _, _, h'⟩ <;>
        rw [hk] at h' <;> cases h'
      · decide
      · decide
      · decide
      · intro hp; contradiction
      · intro _ _ _ _; exact .inl (by assumption)
      · rintro _ _ _ ⟨⟩; exact .inr ⟨by assumption, by assumption⟩
    · rcases initFault_cases m b s with ⟨_, h'⟩ | ⟨_, _, h'⟩ | ⟨_, _, _, _, h'⟩ | ⟨h1, h2, h3, _⟩
      · rw [hk] at h'; cases h'
      · rw [hk] at h'; cases h'
      · rw [hk] at h'; cases h'
      · exact .inr (.inl ⟨m, b, rfl, h1, h2, h3, h⟩)
  | requestWrite n =>
    rcases transferFault_cases s with ⟨hp, hf⟩ | ⟨_, hd, hf⟩ | ⟨h1, h2, hf⟩
    · exact .inl ⟨.cmdWhileBusy, by decide, show execRequestWrite n s = _ by simp [execRequestWrite, hf],
        fun h => absurd h hp, fun h => absurd h hp⟩
    · exact .inl ⟨.notInitialized, by decide, show execRequestWrite n s = _ by simp [execRequestWrite, hf],
        (fun _ _ _ h => nomatch h), fun _ _ => hd⟩
    · rcases execRequestWrite_cases n s with ⟨k, hk, _⟩ | ⟨_, hc, h⟩ | ⟨_, hc, h⟩
      · rw [hf] at hk; cases hk
      · exact .inr (.inr (.inl ⟨n, .inl rfl, h1, h2, hc, h⟩))
      · exact .inr (.inr (.inr (.inl ⟨n, rfl, h1, h2, hc, h⟩)))
  | answerRead n =>
    rcases transferFault_cases s with ⟨hp, hf⟩ | ⟨_, hd, hf⟩ | ⟨h1, h2, hf⟩
    · exact .inl ⟨.cmdWhileBusy, by decide, show execAnswerRead n s = _ by simp [execAnswerRead, hf],
        fun h => absurd h hp, fun h => absurd h hp⟩
    · exact .inl ⟨.notInitialized, by decide, show execAnswerRead n s = _ by simp [execAnswerRead, hf],
        (fun _ _ _ h => nomatch h), fun _ _ => hd⟩
    · rcases execAnswerRead_cases n s with ⟨k, hk, _⟩ | ⟨_, hc, h⟩ | ⟨_, hc, h⟩
      · rw [hf] at hk; cases hk
      · exact .inr (.inr (.inl ⟨n, .inr rfl, h1, h2, hc, h⟩))
      · exact .inr (.inr (.inr (.inr ⟨n, rfl, h1, h2, hc, h⟩)))

/-- A word that decodes with the parameters' LEN_W is a word that decodes, whose length fits. -/
theorem decodeFor_eq_ok {p : Config.Params} {w : Word} {i : Instr} :
    decodeFor p w = .ok i ↔ decode w = .ok i ∧ i.lenFits p.lenW = true := by
  unfold decodeFor
  cases decode w with
  | error e => simp
  | ok j => by_cases h : j.lenFits p.lenW <;> simp only [h] <;> simp <;> rintro rfl <;> simp [h]

/-- A word that is no command is none with any LEN_W, for the same reason. -/
theorem decodeFor_of_error {p : Config.Params} {w : Word} {e : DecodeError} (h : decode w = .error e) :
    decodeFor p w = .error e := by
  simp [decodeFor, h]

/-- A command whose length does not fit LEN_W has reserved bits (log 9). -/
theorem decodeFor_of_long {p : Config.Params} {w : Word} {i : Instr} (h : decode w = .ok i)
    (hl : i.lenFits p.lenW = false) : decodeFor p w = .error .reservedBits := by
  simp [decodeFor, h, hl]

/-- Every decoded length fits 16 bits (30_encoding.md R83). -/
theorem lenFits_of_decode {w : Word} {i : Instr} (h : decode w = .ok i) : i.lenFits 16 = true := by
  have hl : fieldLen w < 2 ^ 16 := BitVec.isLt _
  unfold decode at h
  repeat' split at h
  all_goals cases h
  · rfl
  · exact decide_eq_true hl
  · exact decide_eq_true hl

/-- With the hardware's LEN_W decoding is that of 30_encoding.md R84. -/
theorem decodeFor_eq_decode {p : Config.Params} (h : p.lenW = 16) (w : Word) : decodeFor p w = decode w := by
  cases hd : decode w with
  | error e => exact decodeFor_of_error hd
  | ok i => exact decodeFor_eq_ok.2 ⟨hd, h ▸ lenFits_of_decode hd⟩

/-- Everything the acceptance of a word can do. -/
theorem acceptWord_cases (w : Word) (s : State) :
    (∃ e, decodeFor s.params w = .error e ∧ acceptWord w s = .next (s.raiseFault (faultOfDecodeError e))) ∨
    (∃ i, decodeFor s.params w = .ok i ∧ acceptWord w s = exec i s) := by
  unfold acceptWord
  cases h : decodeFor s.params w with
  | error e => exact .inl ⟨e, rfl, rfl⟩
  | ok i => exact .inr ⟨i, rfl, rfl⟩

/-- The three Callback Results are 0, 1 and 2 (30_encoding.md R90). -/
theorem ofCode_lt {cb : Nat} {r : CallbackResult} (h : CallbackResult.ofCode cb = some r) : cb < 3 := by
  unfold CallbackResult.ofCode at h; split at h
  · decide
  · decide
  · decide
  · cases h

theorem ofCode_eq_success {cb : Nat} : CallbackResult.ofCode cb = some .success ↔ cb = 0 := by
  unfold CallbackResult.ofCode; split <;> simp_all

/-- Everything a transport answer can do: end a write, an idle or a read that the answer fits, or be discarded as
TRANSPORT_VIOLATION. -/
theorem transportAnswer_cases (a : TransportAnswer) (s : State) :
    (∃ bs n t cb r, s.tcall = some (.write bs n t) ∧ a = .write cb ∧ CallbackResult.ofCode cb = some r ∧
      s.transportAnswer a = s.writeAnswered r) ∨
    (∃ n, s.tcall = some (.idle n) ∧ a = .idle ∧ s.transportAnswer a = s.idleAnswered) ∨
    (∃ n t cb bs, s.tcall = some (.read n t) ∧ a = .read cb bs ∧ CallbackResult.ofCode cb = some .success ∧
      bs.length = n ∧ s.transportAnswer a = s.frameReceived bs) ∨
    (∃ n t cb bs r, s.tcall = some (.read n t) ∧ a = .read cb bs ∧ CallbackResult.ofCode cb = some r ∧
      r ≠ .success ∧ s.transportAnswer a = s.readFailed r) ∨
    ((∀ c, s.tcall = some c → c.accepts a = false) ∧
      s.transportAnswer a = s.raiseFault .transportViolation) := by
  cases hc : s.tcall with
  | none => exact .inr (.inr (.inr (.inr ⟨by simp, by simp [State.transportAnswer, hc]⟩)))
  | some c =>
    cases c with
    | write bs n t =>
      cases a with
      | write cb =>
        cases hr : CallbackResult.ofCode cb with
        | none =>
          refine .inr (.inr (.inr (.inr ⟨?_, by simp [State.transportAnswer, hc, hr]⟩)))
          rintro c ⟨⟩; simp [TransportCall.accepts, hr]
        | some r => exact .inl ⟨bs, n, t, cb, r, rfl, rfl, hr, by simp [State.transportAnswer, hc, hr]⟩
      | read cb bs' =>
        refine .inr (.inr (.inr (.inr ⟨?_, by simp [State.transportAnswer, hc]⟩)))
        rintro c ⟨⟩; rfl
      | idle =>
        refine .inr (.inr (.inr (.inr ⟨?_, by simp [State.transportAnswer, hc]⟩)))
        rintro c ⟨⟩; rfl
    | idle n =>
      cases a with
      | write cb =>
        refine .inr (.inr (.inr (.inr ⟨?_, by simp [State.transportAnswer, hc]⟩)))
        rintro c ⟨⟩; rfl
      | read cb bs' =>
        refine .inr (.inr (.inr (.inr ⟨?_, by simp [State.transportAnswer, hc]⟩)))
        rintro c ⟨⟩; rfl
      | idle => exact .inr (.inl ⟨n, rfl, rfl, by simp [State.transportAnswer, hc]⟩)
    | read n t =>
      cases a with
      | write cb =>
        refine .inr (.inr (.inr (.inr ⟨?_, by simp [State.transportAnswer, hc]⟩)))
        rintro c ⟨⟩; rfl
      | idle =>
        refine .inr (.inr (.inr (.inr ⟨?_, by simp [State.transportAnswer, hc]⟩)))
        rintro c ⟨⟩; rfl
      | read cb bs =>
        cases hr : CallbackResult.ofCode cb with
        | none =>
          refine .inr (.inr (.inr (.inr ⟨?_, by simp [State.transportAnswer, hc, hr]⟩)))
          rintro c ⟨⟩; simp [TransportCall.accepts, hr]
        | some r =>
          cases r with
          | success =>
            by_cases hl : bs.length = n
            · exact .inr (.inr (.inl ⟨n, t, cb, bs, rfl, rfl, hr, hl, by simp [State.transportAnswer, hc, hr, hl]⟩))
            · refine .inr (.inr (.inr (.inr ⟨?_, by simp [State.transportAnswer, hc, hr, hl]⟩)))
              rintro c ⟨⟩
              have hcb : cb = 0 := by
                unfold CallbackResult.ofCode at hr; split at hr <;> simp_all
              simp [TransportCall.accepts, hcb, hl]
          | timeout =>
            exact .inr (.inr (.inr (.inl ⟨n, t, cb, bs, .timeout, rfl, rfl, hr, by decide,
              by simp [State.transportAnswer, hc, hr]⟩)))
          | ioError =>
            exact .inr (.inr (.inr (.inl ⟨n, t, cb, bs, .ioError, rfl, rfl, hr, by decide,
              by simp [State.transportAnswer, hc, hr]⟩)))

/-- Everything a write's answer can do (41_commands.md R140, R141). -/
theorem writeAnswered_cases (r : CallbackResult) (s : State) :
    (s.mode = .rtu ∧ r = .success ∧ s.writeAnswered r = s.closeCall.issue (.idle s.curFlen.toNat) .waitIdle) ∨
    ((s.mode = .ascii ∨ r ≠ .success) ∧ s.writeAnswered r = s.closeCall.endCall (mapCb r)) := by
  cases hm : s.mode <;> cases r <;> simp [State.writeAnswered, hm, mapCb]

/-- Everything a received frame can do (41_commands.md R142, R143). -/
theorem conclude_cases (n : Nat) (v : Verdict) (s : State) :
    (∃ q, v = .ok q ∧ s.conclude n v = (s.deliver q).endCall .success) ∨
    (v = .bad ∧ s.conclude n v = (s.invalidate n).endCall .corrupted) := by
  cases v <;> simp [State.conclude]

@[simp] theorem target_cmd (cap : Nat) : target cap 0x000#9 = .cmd := rfl

@[simp] theorem target_status (cap : Nat) : target cap 0x004#9 = .status := rfl

/-- The offsets of PBUF (20_memory.md R51). -/
theorem target_eq_pbuf {cap : Nat} {o : BitVec 9} {i : Nat} :
    target cap o = .pbuf i ↔ o.toNat = 0x100 + i ∧ i < cap := by
  unfold target
  split
  · simp; omega
  · split
    · simp; omega
    · split
      · simp; omega
      · simp; omega

/-- The reserved offsets (20_memory.md R51). -/
theorem target_eq_reserved {cap : Nat} {o : BitVec 9} :
    target cap o = .reserved ↔ (0x008 ≤ o.toNat ∧ o.toNat < 0x100) ∨ 0x100 + cap ≤ o.toNat := by
  unfold target
  split
  · simp; omega
  · split
    · simp; omega
    · split
      · simp; omega
      · simp; omega

/-- Everything a host write can do. -/
theorem hostWrite_cases (offset : BitVec 9) (width : Nat) (data : Word) (s : State) :
    (offset = 0x000#9 ∧ width = 32 ∧ hostWrite offset width data s = acceptWord data s) ∨
    (∃ i, target s.params.pbufCap offset = .pbuf i ∧ width = 8 ∧ s.busy = false ∧
      hostWrite offset width data s = .next (s.writePbuf i (data.setWidth 8))) ∨
    (∃ k j, k ≠ .none ∧ hostWrite offset width data s = .next ((s.raiseFault k).draw j)) := by
  unfold hostWrite
  cases ht : target s.params.pbufCap offset with
  | reserved => exact .inr (.inr ⟨_, 0, by decide, rfl⟩)
  | status => exact .inr (.inr ⟨_, 0, by decide, rfl⟩)
  | cmd =>
    by_cases h : offset = 0x000#9 ∧ width = 32
    · exact .inl ⟨h.1, h.2, by simp [h]⟩
    · exact .inr (.inr ⟨.badAccess, 0, by decide, by simp only [if_neg h]; rfl⟩)
  | pbuf i =>
    by_cases h : width = 8
    · cases hb : s.busy
      · exact .inr (.inl ⟨i, rfl, h, rfl, by simp [h]⟩)
      · exact .inr (.inr ⟨.pbufWriteWhileBusy, 0, by decide, by simp [h]; rfl⟩)
    · simp only [if_neg h, State.badPbufWrite]
      cases hb : s.busy
      · exact .inr (.inr ⟨.badAccess, 0, by decide, rfl⟩)
      · refine .inr (.inr ⟨_, 1, ?_, rfl⟩)
        split <;> decide

/-- Everything a host read can do: it returns a word, may record a fault or M1, and may draw. -/
theorem hostRead_cases (offset : BitVec 9) (width : Nat) (s : State) :
    (∃ d, hostRead offset width s = s.respond d) ∨
    (∃ d, s.busy = true ∧ hostRead offset width s = (s.respond d).draw 1) ∨
    (∃ d, s.busy = false ∧ hostRead offset width s = ((s.respond d).recordM1 true).draw 1) ∨
    (∃ k, k ≠ .none ∧ hostRead offset width s = (s.raiseFault k).respond 0#32) := by
  unfold hostRead
  cases ht : target s.params.pbufCap offset with
  | reserved => exact .inr (.inr (.inr ⟨_, by decide, rfl⟩))
  | status =>
    by_cases h : offset = 0x004#9 ∧ width = 32
    · exact .inl ⟨_, by simp only [if_pos h]; rfl⟩
    · exact .inr (.inr (.inr ⟨.badAccess, by decide, by simp only [if_neg h]; rfl⟩))
  | cmd =>
    by_cases h : offset = 0x000#9 ∧ width = 32
    · exact .inl ⟨_, by simp only [if_pos h]; rfl⟩
    · exact .inr (.inr (.inr ⟨.badAccess, by decide, by simp only [if_neg h]; rfl⟩))
  | pbuf i =>
    by_cases h : width = 8
    · simp only [if_pos h, State.readPbuf]
      cases hb : s.busy
      · cases hr : Memory.read s.pbuf i with
        | some b => exact .inl ⟨_, rfl⟩
        | none => exact .inr (.inr (.inl ⟨_, rfl, rfl⟩))
      · exact .inr (.inl ⟨_, rfl, rfl⟩)
    · exact .inr (.inr (.inr ⟨.badAccess, by decide, by simp only [if_neg h]; rfl⟩))

/-- Everything a step can do. -/
theorem step_cases (s : State) :
    (s.refused = true ∧ step s = .refused (if s.params.Ok then .resetWhileBusy else .badParameters)) ∨
    (¬ s.params.Ok ∧ s.refused = false ∧ step s = .next s.markRefused) ∨
    (s.params.Ok ∧ s.refused = false ∧ s.inputs = [] ∧ step s = .next s) ∨
    (∃ e rest, s.params.Ok ∧ s.refused = false ∧ s.inputs = e :: rest ∧
      step s = takeInput e (s.withInputs rest)) := by
  unfold step
  cases hr : s.refused
  · by_cases hp : s.params.Ok
    · cases hi : s.inputs with
      | nil => exact .inr (.inr (.inl ⟨hp, rfl, rfl, by simp [hp]⟩))
      | cons e rest => exact .inr (.inr (.inr ⟨e, rest, hp, rfl, rfl, by simp [hp]⟩))
    · exact .inr (.inl ⟨hp, rfl, by rw [if_neg (by decide), if_pos hp]⟩)
  · exact .inl ⟨rfl, by rw [if_pos rfl]⟩

/-- A step that answers a next state marked bad parameters, waited, or took the first input. -/
theorem step_next (h : step s = .next t) :
    (¬ s.params.Ok ∧ s.refused = false ∧ t = s.markRefused) ∨
    (s.params.Ok ∧ s.inputs = [] ∧ t = s) ∨
    (∃ e rest, s.params.Ok ∧ s.refused = false ∧ s.inputs = e :: rest ∧
      takeInput e (s.withInputs rest) = .next t) := by
  rcases step_cases s with ⟨_, h'⟩ | ⟨hp, hr, h'⟩ | ⟨hp, _, hi, h'⟩ | ⟨e, rest, hp, hr, hi, h'⟩
  · rw [h] at h'; cases h'
  · rw [h] at h'; cases h'; exact .inl ⟨hp, hr, rfl⟩
  · rw [h] at h'; cases h'; exact .inr (.inl ⟨hp, hi, rfl⟩)
  · exact .inr (.inr ⟨e, rest, hp, hr, hi, h' ▸ h⟩)

/-- Everything one input can do, in one list: a recorded fault, a host read, a PBUF write, an accepted command, an
accepted answer, a reset. -/
theorem takeInput_cases {e : Input} (h : takeInput e s = .next t) :
    (e ≠ .reset ∧ ∃ k j, k ≠ .none ∧ (t = (s.raiseFault k).draw j ∨ t = (s.raiseFault k).respond 0#32)) ∨
    (∃ o w d j due, e = .host (.read o w) ∧ (due = true → s.phase = .ready) ∧
      t = ((s.respond d).recordM1 due).draw j) ∨
    (∃ o d i, e = .host (.write o 8 d) ∧ o.toNat = 0x100 + i ∧ i < s.params.pbufCap ∧ s.phase = .ready ∧
      t = s.writePbuf i (d.setWidth 8)) ∨
    (∃ w i, e = submitWord w ∧ decodeFor s.params w = .ok i ∧ s.phase = .ready ∧
      ((∃ m b, i = .init m b ∧ s.initDone = false ∧ (m = .rtu → b = true) ∧ t = s.configure m b) ∨
        (∃ n, (i = .requestWrite n ∨ i = .answerRead n) ∧ s.initDone = true ∧ s.params.wbCap < flen s.mode n ∧
          t = s.finish .noBufferSpace) ∨
        (∃ n, i = .requestWrite n ∧ s.initDone = true ∧ flen s.mode n ≤ s.params.wbCap ∧ t = s.sendFrame n) ∨
        (∃ n, i = .answerRead n ∧ s.initDone = true ∧ flen s.mode n ≤ s.params.wbCap ∧ t = s.awaitFrame n))) ∨
    (∃ a c, e = .transport a ∧ s.tcall = some c ∧
      ((∃ cb r, a = .write cb ∧ (∃ bs n ms, c = .write bs n ms) ∧ CallbackResult.ofCode cb = some r ∧
          t = s.writeAnswered r) ∨
        (a = .idle ∧ (∃ n, c = .idle n) ∧ t = s.idleAnswered) ∨
        (∃ bs n ms, a = .read 0 bs ∧ c = .read n ms ∧ bs.length = n ∧ t = s.frameReceived bs) ∨
        (∃ cb bs r, a = .read cb bs ∧ (∃ n ms, c = .read n ms) ∧ CallbackResult.ofCode cb = some r ∧ r ≠ .success ∧
          t = s.readFailed r))) ∨
    (e = .reset ∧ ((s.phase = .ready ∧ t = s.resetBlock) ∨ (s.phase ≠ .ready ∧ t = s.markRefused))) := by
  unfold takeInput at h
  split at h
  · rename_i o w d
    rcases hostWrite_cases o w d s with ⟨rfl, rfl, h'⟩ | ⟨i, ht, rfl, hb, h'⟩ | ⟨k, j, hk, h'⟩ <;> rw [h'] at h
    · rcases acceptWord_cases d s with ⟨e, _, h'⟩ | ⟨i, hd, h'⟩ <;> rw [h'] at h
      · cases h
        exact .inl ⟨by simp, faultOfDecodeError e, 0, by cases e <;> decide, .inl rfl⟩
      · rcases exec_cases i s with ⟨k, hk, he, -, -⟩ | ⟨m, b, hi, hp, hn, hm, he⟩ | ⟨n, hi, hp, hn, hc, he⟩ |
          ⟨n, hi, hp, hn, hc, he⟩ | ⟨n, hi, hp, hn, hc, he⟩ <;> rw [he] at h <;> cases h
        · exact .inl ⟨by simp, k, 0, hk, .inl rfl⟩
        · exact .inr (.inr (.inr (.inl ⟨d, i, rfl, hd, hp, .inl ⟨m, b, hi, hn, hm, rfl⟩⟩)))
        · exact .inr (.inr (.inr (.inl ⟨d, i, rfl, hd, hp, .inr (.inl ⟨n, hi, hn, hc, rfl⟩)⟩)))
        · exact .inr (.inr (.inr (.inl ⟨d, i, rfl, hd, hp, .inr (.inr (.inl ⟨n, hi, hn, hc, rfl⟩))⟩)))
        · exact .inr (.inr (.inr (.inl ⟨d, i, rfl, hd, hp, .inr (.inr (.inr ⟨n, hi, hn, hc, rfl⟩))⟩)))
    · cases h
      obtain ⟨ho, hi⟩ := target_eq_pbuf.1 ht
      exact .inr (.inr (.inl ⟨o, d, i, rfl, ho, hi, s.busy_false_iff.1 hb, rfl⟩))
    · cases h
      exact .inl ⟨by simp, k, j, hk, .inl rfl⟩
  · rename_i o w
    cases h
    rcases hostRead_cases o w s with ⟨d, h'⟩ | ⟨d, _, h'⟩ | ⟨d, hb, h'⟩ | ⟨k, hk, h'⟩ <;> rw [h']
    · exact .inr (.inl ⟨o, w, d, 0, false, rfl, by simp, by ext1 <;> simp⟩)
    · exact .inr (.inl ⟨o, w, d, 1, false, rfl, by simp, by ext1 <;> simp⟩)
    · exact .inr (.inl ⟨o, w, d, 1, true, rfl, fun _ => s.busy_false_iff.1 hb, rfl⟩)
    · exact .inl ⟨by simp, k, 0, hk, .inr rfl⟩
  · rename_i a
    cases h
    rcases transportAnswer_cases a s with ⟨bs, n, ms, cb, r, hc, rfl, hcb, he⟩ | ⟨n, hc, rfl, he⟩ |
      ⟨n, ms, cb, bs, hc, rfl, hcb, hl, he⟩ | ⟨n, ms, cb, bs, r, hc, rfl, hcb, hr, he⟩ | ⟨-, he⟩ <;> rw [he]
    · exact .inr (.inr (.inr (.inr (.inl ⟨_, _, rfl, hc, .inl ⟨cb, r, rfl, ⟨bs, n, ms, rfl⟩, hcb, rfl⟩⟩))))
    · exact .inr (.inr (.inr (.inr (.inl ⟨_, _, rfl, hc, .inr (.inl ⟨rfl, ⟨n, rfl⟩, rfl⟩)⟩))))
    · obtain rfl := ofCode_eq_success.1 hcb
      exact .inr (.inr (.inr (.inr (.inl ⟨_, _, rfl, hc, .inr (.inr (.inl ⟨bs, n, ms, rfl, rfl, hl, rfl⟩))⟩))))
    · exact .inr (.inr (.inr (.inr (.inl ⟨_, _, rfl, hc,
        .inr (.inr (.inr ⟨cb, bs, r, rfl, ⟨n, ms, rfl⟩, hcb, hr, rfl⟩))⟩))))
    · exact .inl ⟨by simp, .transportViolation, 0, by decide, .inl rfl⟩
  · cases h
    refine .inr (.inr (.inr (.inr (.inr ⟨rfl, ?_⟩))))
    unfold State.takeReset
    split
    · exact .inr ⟨s.busy_iff.1 (by assumption), rfl⟩
    · exact .inl ⟨s.busy_false_iff.1 (by simp_all), rfl⟩

theorem step_takeInput {e : Input} {rest : List Input} (hp : s.params.Ok) (hr : s.refused = false)
    (hi : s.inputs = e :: rest) : step s = takeInput e (s.withInputs rest) := by
  unfold step; simp [hp, hr, hi]

end Sys2Proof.Machine
end

