-- ==== Sys2Proof/Machine/Assembler.lean ====
section
/-! DEFINITION. The program notation of 30_encoding.md R98 and the pseudo-instructions of R99: what a line of it
makes the host and the transport do, and how a line is read. It is no part of the step (log 20). -/

namespace Sys2Proof.Machine

/-- One line of a program (30_encoding.md R98). -/
inductive AsmLine where
  /-- `INIT …`, `REQW n`, `ANSR n`: a command. -/
  | command (i : Instr)
  /-- `PB a = b0 b1 …`. -/
  | pb (a : Nat) (bytes : List Byte)
  /-- `RD STATUS`. -/
  | rdStatus
  /-- `RD PB a..b`. -/
  | rdPb (a b : Nat)
  /-- `WAIT`. -/
  | wait
  /-- `T> write -> cb`, `T> read -> cb [bytes]`, `T> idle`. -/
  | answer (t : TransportAnswer)
deriving DecidableEq, Repr

/-- `PBUF[a]`'s offset in the host register space (20_memory.md R51). Past 0x1FF it wraps; no line that is read gets
there (`pbufReaches`, log 20). -/
def pbufOffset (a : Nat) : BitVec 9 := BitVec.ofNat 9 (0x100 + a)

/-- The `n` cells from `PBUF[a]` on have offsets in the host register space: 0x100 to 0x1FF, without wrap. DESIGN
CHOICE (log 20): a line that names a cell past them is no line. -/
def pbufReaches (a n : Nat) : Bool := decide (a + n ≤ 0x100)

/-- The host's writes `PBUF[a+i] <- bi`. -/
def pbufWrites : Nat → List Byte → List Input
  | _, [] => []
  | a, b :: s => .host (.write (pbufOffset a) 8 (b.setWidth 32)) :: pbufWrites (a + 1) s

/-- The host's reads of the `k` bytes from `PBUF[a]` on. -/
def pbufReads : Nat → Nat → List Input
  | _, 0 => []
  | a, k + 1 => .host (.read (pbufOffset a) 8) :: pbufReads (a + 1) k

/-- The host's read of STATUS. -/
def readStatus : Input := .host (.read 0x004#9 32)

/-- The actions a line stands for. `WAIT` reads STATUS as often as the host has to, `polls` times. -/
def AsmLine.inputs (polls : Nat) : AsmLine → List Input
  | .command i => [submitWord (encode i)]
  | .pb a bytes => pbufWrites a bytes
  | .rdStatus => [readStatus]
  | .rdPb a b => pbufReads a (b - a)
  | .wait => List.replicate polls readStatus
  | .answer t => [.transport t]

/-- `SEND b0 … b(n-1)` (30_encoding.md R99), for the bytes `asmSendLine` admits. -/
def asmSend (bytes : List Byte) : List AsmLine := [.pb 0 bytes, .command (.requestWrite bytes.length), .wait]

/-- A `SEND` line: its `PB 0 = …` is held to what a written `PB` line is, so one of more than 256 bytes is no line
(log 20). -/
def asmSendLine (bytes : List Byte) : Option (List AsmLine) :=
  if pbufReaches 0 bytes.length then some (asmSend bytes) else none

/-- `RECV n` up to and including its `RD STATUS` (30_encoding.md R99). -/
def asmRecv (n : Nat) : List AsmLine := [.command (.answerRead n), .wait, .rdStatus]

/-- The rest of `RECV n`: "only if STATUS.RESULT = 0, RD PB 0..n" (30_encoding.md R99). A read past the 256 cells the
host reaches is no line (log 20). -/
def asmRecvRest (n : Nat) (status : Word) : List AsmLine :=
  if status.extractLsb' 0 3 = 0#3 ∧ pbufReaches 0 n then [.rdPb 0 n] else []

/-! Reading a line. A line is its characters; `;` starts a comment; mnemonics are case-insensitive. -/

/-- The line without its comment, in lower case. -/
def asmText : List Char → List Char
  | [] => []
  | c :: cs => if c = ';' then [] else c.toLower :: asmText cs

/-- The tokens of a text, given the word read so far: a space ends a word, and each of `, = [ ] .` is a token of
its own. -/
def asmTokens : List Char → List Char → List (List Char)
  | w, [] => if w = [] then [] else [w]
  | w, c :: cs =>
    if c = ' ' ∨ c = '\t' then (if w = [] then [] else [w]) ++ asmTokens [] cs
    else if c = ',' ∨ c = '=' ∨ c = '[' ∨ c = ']' ∨ c = '.' then
      (if w = [] then [] else [w]) ++ [[c]] ++ asmTokens [] cs
    else asmTokens (w ++ [c]) cs

/-- The value of a hexadecimal digit, lower case. -/
def asmDigit (c : Char) : Option Nat :=
  if 0x30 ≤ c.toNat ∧ c.toNat ≤ 0x39 then some (c.toNat - 0x30)
  else if 0x61 ≤ c.toNat ∧ c.toNat ≤ 0x66 then some (c.toNat - 0x57)
  else none

/-- The number written by `cs` in base `base`, continued from `acc`. -/
def asmDigits (base acc : Nat) : List Char → Option Nat
  | [] => some acc
  | c :: cs =>
    match asmDigit c with
    | some d => if d < base then asmDigits base (acc * base + d) cs else none
    | none => none

/-- A number: decimal, or hexadecimal with `0x`. -/
def asmNumber : List Char → Option Nat
  | [] => none
  | '0' :: 'x' :: c :: cs => asmDigits 16 0 (c :: cs)
  | c :: cs => asmDigits 10 0 (c :: cs)

/-- A length that fits the LEN field; a longer one makes no line (log 20). -/
def asmLength (w : List Char) : Option Nat :=
  match asmNumber w with
  | some n => if n < 2 ^ Config.lenWidth then some n else none
  | none => none

/-- A hexadecimal byte. -/
def asmByte : List Char → Option Byte
  | [c, d] => (asmDigits 16 0 [c, d]).map (BitVec.ofNat 8)
  | _ => none

/-- Hexadecimal bytes, all of the tokens. -/
def asmBytes : List (List Char) → Option (List Byte)
  | [] => some []
  | w :: ws =>
    match asmByte w, asmBytes ws with
    | some b, some bs => some (b :: bs)
    | _, _ => none

/-- The number of a Callback Result (30_encoding.md R90). -/
def asmCallback (w : List Char) : Option Nat :=
  if w = ['s', 'u', 'c', 'c', 'e', 's', 's'] then some 0
  else if w = ['t', 'i', 'm', 'e', 'o', 'u', 't'] then some 1
  else if w = ['i', 'o', 'e', 'r', 'r', 'o', 'r'] then some 2
  else none

/-- The words of the notation. -/
inductive AsmWord where
  | init | ascii | rtu | idle | reqw | ansr | pb | rd | status | wait | t | write | read | arrow | send | recv
deriving DecidableEq, Repr

/-- How each word is spelled. -/
def AsmWord.spelling : AsmWord → List Char
  | .init => ['i', 'n', 'i', 't']
  | .ascii => ['a', 's', 'c', 'i', 'i']
  | .rtu => ['r', 't', 'u']
  | .idle => ['i', 'd', 'l', 'e']
  | .reqw => ['r', 'e', 'q', 'w']
  | .ansr => ['a', 'n', 's', 'r']
  | .pb => ['p', 'b']
  | .rd => ['r', 'd']
  | .status => ['s', 't', 'a', 't', 'u', 's']
  | .wait => ['w', 'a', 'i', 't']
  | .t => ['t', '>']
  | .write => ['w', 'r', 'i', 't', 'e']
  | .read => ['r', 'e', 'a', 'd']
  | .arrow => ['-', '>']
  | .send => ['s', 'e', 'n', 'd']
  | .recv => ['r', 'e', 'c', 'v']

/-- The mode a word names. -/
def asmMode (w : List Char) : Option Mode :=
  if w = AsmWord.ascii.spelling then some .ascii else if w = AsmWord.rtu.spelling then some .rtu else none

/-- `INIT`'s operands: a mode, and `, idle` or nothing. -/
def asmInit : List (List Char) → Option (List AsmLine)
  | [m] => (asmMode m).map (fun m => [.command (.init m false)])
  | [m, [','], i] => if i = AsmWord.idle.spelling then (asmMode m).map (fun m => [.command (.init m true)]) else none
  | _ => none

/-- `PB`'s operands: `a = b0 b1 …`, all inside the 256 offsets from 0x100 on (log 20). -/
def asmPb : List (List Char) → Option (List AsmLine)
  | a :: ['='] :: ws =>
    match asmNumber a, asmBytes ws with
    | some a, some bs => if pbufReaches a bs.length then some [.pb a bs] else none
    | _, _ => none
  | _ => none

/-- `RD`'s operands: `STATUS`, or `PB a..b`, with `b` from `a` to 256 (log 20). -/
def asmRd : List (List Char) → Option (List AsmLine)
  | [s] => if s = AsmWord.status.spelling then some [.rdStatus] else none
  | [p, a, ['.'], ['.'], b] =>
    if p = AsmWord.pb.spelling then
      match asmNumber a, asmNumber b with
      | some a, some b => if a ≤ b ∧ pbufReaches a (b - a) then some [.rdPb a b] else none
      | _, _ => none
    else none
  | _ => none

/-- `[bytes]`, or nothing. -/
def asmBracketed : List (List Char) → Option (List Byte)
  | [] => some []
  | ['['] :: ws => if ws.getLast? = some [']'] then asmBytes ws.dropLast else none
  | _ => none

/-- `T>`'s operands. -/
def asmAnswer : List (List Char) → Option (List AsmLine)
  | [i] => if i = AsmWord.idle.spelling then some [.answer .idle] else none
  | k :: arrow :: cb :: ws =>
    if arrow = AsmWord.arrow.spelling then
      if k = AsmWord.write.spelling ∧ ws = [] then (asmCallback cb).map (fun r => [.answer (.write r)])
      else if k = AsmWord.read.spelling then
        match asmCallback cb, asmBracketed ws with
        | some r, some bs => some [.answer (.read r bs)]
        | _, _ => none
      else none
    else none
  | _ => none

/-- The lines a tokenised line stands for: none of them for a blank line, three for a pseudo-instruction
(30_encoding.md R98, R99). No answer for a text that is no line. -/
def asmParse : List (List Char) → Option (List AsmLine)
  | [] => some []
  | m :: ws =>
    if m = AsmWord.init.spelling then asmInit ws
    else if m = AsmWord.pb.spelling then asmPb ws
    else if m = AsmWord.rd.spelling then asmRd ws
    else if m = AsmWord.t.spelling then asmAnswer ws
    else if m = AsmWord.wait.spelling ∧ ws = [] then some [.wait]
    else if m = AsmWord.send.spelling then (asmBytes ws).bind asmSendLine
    else
      match ws with
      | [n] =>
        if m = AsmWord.reqw.spelling then (asmLength n).map (fun n => [.command (.requestWrite n)])
        else if m = AsmWord.ansr.spelling then (asmLength n).map (fun n => [.command (.answerRead n)])
        else if m = AsmWord.recv.spelling then (asmLength n).map asmRecv
        else none
      | _ => none

/-- A program line read (30_encoding.md R98). -/
def asmLine (text : List Char) : Option (List AsmLine) := asmParse (asmTokens [] (asmText text))

end Sys2Proof.Machine
end

