-- ==== Sys2Proof/Tests/Slice0.lean ====
section
/-! SUPPORT. The model's own tests. Expected values are the spec's: 30_encoding.md R80-R99 and the tables of
95_test_vectors.md. After them, for every obligation with hypotheses, a state and operands that meet them. -/

namespace Sys2Proof.Tests

open Sys2Proof Sys2Proof.Machine

/-! ## Instructions that are not well formed -/

theorem test_illformed_request_write : (Instr.requestWrite 65536).wellFormed = false := by decide
theorem test_illformed_answer_read : (Instr.answerRead 65536).wellFormed = false := by decide
theorem test_wellformed :
    (Instr.requestWrite 65535).wellFormed ∧ (Instr.answerRead 0).wellFormed ∧ (Instr.init .rtu false).wellFormed := by
  decide

/-! ## Words written out from 30_encoding.md R80-R82 -/

theorem test_decode_init :
    decode 0b00000000000000110000000000000000#32 = .ok (.init .rtu true) ∧
    decode 0b00000000000000010000000000000000#32 = .ok (.init .rtu false) ∧
    decode 0b00000000000000100000000000000000#32 = .ok (.init .ascii true) ∧
    decode 0b00000000000000000000000000000000#32 = .ok (.init .ascii false) := by
  refine ⟨?_, ?_, ?_, ?_⟩ <;> rfl

theorem test_decode_request_write :
    decode 0b00010000000000000000000001111101#32 = .ok (.requestWrite 125) ∧
    decode 0b00010000000000001000000000000001#32 = .ok (.requestWrite 0x8001) := by
  constructor <;> rfl

theorem test_decode_answer_read :
    decode 0b00100000000000000000000000000111#32 = .ok (.answerRead 7) ∧
    decode 0b00100000000000001111111111111111#32 = .ok (.answerRead 65535) := by
  constructor <;> rfl

/-- 95_test_vectors.md 2.7. -/
theorem test_decode_reserved :
    decode 0x30000000#32 = .error .reservedOpcode ∧ decode 0xF0000000#32 = .error .reservedOpcode ∧
    decode 0x00000001#32 = .error .reservedBits ∧ decode 0x00040000#32 = .error .reservedBits ∧
    decode 0x10010000#32 = .error .reservedBits ∧ decode 0x1FFF0000#32 = .error .reservedBits ∧
    decode 0x22000000#32 = .error .reservedBits := by
  refine ⟨?_, ?_, ?_, ?_, ?_, ?_, ?_⟩ <;> rfl

/-- 30_encoding.md R98. -/
theorem test_encode :
    encode (.init .rtu true) = 0x00030000#32 ∧ encode (.init .ascii true) = 0x00020000#32 ∧
    encode (.requestWrite 6) = 0x10000006#32 ∧ encode (.answerRead 7) = 0x20000007#32 := by decide

theorem test_decode_table_word :
    decodeTableWord 32 0x00020000 = some (.init .ascii true) ∧ decodeTableWord 32 0x1000FFFF = some (.requestWrite 65535) ∧
    decodeTableWord 32 0x30000000 = none := by decide

/-! ## Checksums and codecs (95_test_vectors.md 2.1-2.5) -/

theorem test_lrc :
    lrc [] = 0x00#8 ∧ lrc [0x5A#8] = 0xA6#8 ∧ lrc [0x80#8, 0x80#8] = 0x00#8 ∧
    lrc [0x05#8, 0x03#8, 0x04#8, 0x12#8, 0x34#8, 0x56#8, 0x78#8] = 0xE0#8 := by decide

theorem test_crc :
    crc16 [] = 0xFFFF#16 ∧ crc16 [0xFF#8, 0xFF#8] = 0x0000#16 ∧
    crc16 [0x31#8, 0x32#8, 0x33#8, 0x34#8, 0x35#8, 0x36#8, 0x37#8, 0x38#8, 0x39#8] = 0x4B37#16 ∧
    crc16 [0x05#8, 0x03#8, 0x00#8, 0x10#8, 0x00#8, 0x02#8] = 0x4AC4#16 := by decide +kernel

theorem test_ascii_encode :
    asciiEncode [] = [0x3A#8, 0x30#8, 0x30#8, 0x0D#8, 0x0A#8] ∧
    asciiEncode [0x5A#8] = [0x3A#8, 0x35#8, 0x41#8, 0x41#8, 0x36#8, 0x0D#8, 0x0A#8] ∧
    asciiEncode [0x0D#8, 0x0A#8] = [0x3A#8, 0x30#8, 0x44#8, 0x30#8, 0x41#8, 0x45#8, 0x39#8, 0x0D#8, 0x0A#8] := by decide

/-- Lowercase, the sentinel that balances the LRC, swapped CR and LF. -/
theorem test_ascii_decode :
    asciiDecode 0xFF#8 [0x3A#8, 0x46#8, 0x46#8, 0x30#8, 0x31#8, 0x0D#8, 0x0A#8] 1 = .ok [0xFF#8] ∧
    asciiDecode 0xFF#8 [0x3A#8, 0x66#8, 0x66#8, 0x30#8, 0x31#8, 0x0D#8, 0x0A#8] 1 = .bad ∧
    asciiDecode 0xFF#8 [0x3A#8, 0x47#8, 0x47#8, 0x30#8, 0x31#8, 0x0D#8, 0x0A#8] 1 = .bad ∧
    asciiDecode 0xFF#8 [0x3A#8, 0x30#8, 0x30#8, 0x0A#8, 0x0D#8] 0 = .bad ∧
    asciiDecode 0xFF#8 [0x3A#8, 0x30#8, 0x31#8, 0x0D#8, 0x0A#8] 0 = .bad := by decide

theorem test_rtu :
    rtuEncode [0x05#8, 0x03#8, 0x00#8, 0x10#8, 0x00#8, 0x02#8] =
      [0x05#8, 0x03#8, 0x00#8, 0x10#8, 0x00#8, 0x02#8, 0xC4#8, 0x4A#8] ∧
    rtuDecode [0x05#8, 0x03#8, 0x04#8, 0x12#8, 0x34#8, 0x56#8, 0x78#8, 0xC4#8, 0xC7#8] 7 =
      .ok [0x05#8, 0x03#8, 0x04#8, 0x12#8, 0x34#8, 0x56#8, 0x78#8] ∧
    rtuDecode [0x05#8, 0x03#8, 0x00#8, 0x10#8, 0x00#8, 0x02#8, 0x4A#8, 0xC4#8] 6 = .bad := by decide +kernel

/-! ## Small states -/

/-- The state a step answers, or the state itself where it stops. -/
def next (s : State) : State :=
  match step s with
  | .next t => t
  | .fault _ => s
  | .refused _ => s

/-- The state after one input. -/
def after (s : State) (e : Input) : State := next (s.withInputs [e])

/-- The STATUS word after one input. -/
def statusAfter (s : State) (e : Input) : Word := (after s e).statusWord

/-- "ready-A" of 95_test_vectors.md 2.7, without its payload. -/
def readyA : State := { State.reset with initDone := true }

/-- READY in RTU mode. -/
def readyR : State := { State.reset with initDone := true, mode := .rtu, idleEn := true }

/-- READY in ASCII mode with a LEN field of 9 bits. -/
def narrowA : State := { readyA with params := { Config.defaults with lenW := 9 } }

/-- A payload of six bytes in PBUF. -/
def payload6 : List Byte := [0x05#8, 0x03#8, 0x00#8, 0x10#8, 0x00#8, 0x02#8]

/-- The state with that payload. -/
def loaded (s : State) : State := { s with pbuf := Memory.store [] 0 payload6 }

/-- After `REQW 0`, `ANSR 1` and, in RTU mode, the write's answer. -/
def writingA : State := after readyA (submitWord 0x10000000#32)
def writingR : State := after readyR (submitWord 0x10000000#32)
def idlingR : State := after writingR (.transport (.write 0))
def readingA : State := after readyA (submitWord 0x20000001#32)
def readingR : State := after readyR (submitWord 0x20000001#32)

/-- `":FF01\r\n"`, and the same in lower case. -/
def frameFF : List Byte := [0x3A#8, 0x46#8, 0x46#8, 0x30#8, 0x31#8, 0x0D#8, 0x0A#8]
def frameff : List Byte := [0x3A#8, 0x66#8, 0x66#8, 0x30#8, 0x31#8, 0x0D#8, 0x0A#8]

/-! ## Steps (95_test_vectors.md 2.7-2.9, programs P1-P6) -/

/-- INIT: 2.7, and the first code kept. -/
theorem test_init :
    statusAfter .reset (submitWord 0x00000000#32) = 0x00000010#32 ∧
    statusAfter .reset (submitWord 0x00020000#32) = 0x00000050#32 ∧
    statusAfter .reset (submitWord 0x00030000#32) = 0x00000070#32 ∧
    statusAfter .reset (submitWord 0x00010000#32) = 0x00000680#32 ∧
    statusAfter readyA (submitWord 0x00030000#32) = 0x00000290#32 ∧
    statusAfter writingA (submitWord 0x00000000#32) = 0x00000398#32 ∧
    statusAfter (after .reset (submitWord 0x10000000#32)) (submitWord 0x00010000#32) = 0x00000180#32 := by
  decide +kernel

/-- REQUEST_WRITE: 2.7, 2.8. -/
theorem test_request_write :
    statusAfter .reset (submitWord 0x10000000#32) = 0x00000180#32 ∧
    statusAfter readyA (submitWord 0x10000000#32) = 0x00000018#32 ∧
    statusAfter readyA (submitWord 0x1000007E#32) = 0x00000011#32 ∧
    statusAfter readyA (submitWord 0x1000FFFF#32) = 0x00000011#32 ∧
    statusAfter readyR (submitWord 0x100000FF#32) = 0x00000071#32 ∧
    statusAfter writingR (submitWord 0x20000000#32) = 0x000003F8#32 := by
  decide +kernel

/-- P1 line 3 and P2 line 3: the calls issued. -/
theorem test_request_write_call :
    (after (loaded readyA) (submitWord 0x10000006#32)).tcall =
      some (.write [0x3A#8, 0x30#8, 0x35#8, 0x30#8, 0x33#8, 0x30#8, 0x30#8, 0x31#8, 0x30#8, 0x30#8, 0x30#8, 0x30#8, 0x32#8,
        0x45#8, 0x36#8, 0x0D#8, 0x0A#8] 17 100) ∧
    (after (loaded readyR) (submitWord 0x10000006#32)).tcall =
      some (.write [0x05#8, 0x03#8, 0x00#8, 0x10#8, 0x00#8, 0x02#8, 0xC4#8, 0x4A#8] 8 100) := by
  decide +kernel

/-- ANSWER_READ: 2.7, 2.8. -/
theorem test_answer_read :
    statusAfter .reset (submitWord 0x20000005#32) = 0x00000180#32 ∧
    (after readyA (submitWord 0x2000007D#32)).tcall = some (.read 255 100) ∧
    (after readyR (submitWord 0x200000FE#32)).tcall = some (.read 256 100) ∧
    statusAfter readyA (submitWord 0x2000007E#32) = 0x00000011#32 := by
  decide +kernel

/-- P1 line 4, P2 lines 4 and 5, P5 line 4, P3 lines 6 to 8. -/
theorem test_answers :
    statusAfter writingA (.transport (.write 0)) = 0x00000010#32 ∧
    (after writingR (.transport (.write 0))).tcall = some (.idle 2) ∧
    statusAfter idlingR (.transport .idle) = 0x00000070#32 ∧
    statusAfter writingR (.transport (.write 1)) = 0x00000072#32 ∧
    statusAfter readingA (.transport (.read 2 [])) = 0x00000014#32 ∧
    statusAfter readingA (.transport (.read 0 frameFF)) = 0x00000010#32 ∧
    (after readingA (.transport (.read 0 frameFF))).pbuf = [(0, 0xFF#8)] ∧
    statusAfter readingA (.transport (.read 0 frameff)) = 0x00000013#32 := by
  decide +kernel

/-- 2.9: the transport's violations. -/
theorem test_violations :
    statusAfter readyA (.transport (.write 0)) = 0x00000890#32 ∧
    statusAfter readingA (.transport (.read 0 [0x3A#8])) = 0x00000898#32 ∧
    statusAfter writingA (.transport (.read 0 [])) = 0x00000898#32 := by
  decide +kernel

/-- 2.9: host reads. -/
theorem test_host_reads :
    (after readyA (.host (.read 0x000#9 32))).readData = 0x00000000#32 ∧
    (after readyA (.host (.read 0x004#9 32))).readData = 0x00000010#32 ∧
    statusAfter readyA (.host (.read 0x004#9 16)) = 0x00000A90#32 ∧
    statusAfter readyA (.host (.read 0x008#9 32)) = 0x00000990#32 ∧
    (after (loaded readyA) (.host (.read 0x103#9 8))).readData = 0x00000010#32 := by
  decide +kernel

/-- 2.9: host writes. -/
theorem test_host_writes :
    statusAfter readyA (.host (.write 0x004#9 32 0#32)) = 0x00000A90#32 ∧
    statusAfter readyA (.host (.write 0x002#9 8 0#32)) = 0x00000A90#32 ∧
    statusAfter readyA (.host (.write 0x100#9 32 0#32)) = 0x00000A90#32 ∧
    statusAfter writingA (.host (.write 0x105#9 8 0#32)) = 0x00000798#32 ∧
    (after readyA (.host (.write 0x105#9 8 0xAB#32))).pbuf = [(5, 0xAB#8)] := by
  decide +kernel

/-- A length that fits 16 bits of LEN and not 9 (log 9), and parameters that 00_scope.md R9 excludes (log 10). -/
theorem test_parameters :
    statusAfter readyA (submitWord 0x20000200#32) = 0x00000011#32 ∧
    statusAfter narrowA (submitWord 0x20000200#32) = 0x00000590#32 ∧
    (next { readyA with params := { Config.defaults with pbufCap := 253 } }).refused = true ∧
    (State.clean { readyA with params := { Config.defaults with pbufCap := 253 } }) = false := by
  decide +kernel

/-- Program lines (30_encoding.md R98, R99). -/
theorem test_lines :
    asmLine "INIT rtu, idle ; boot".toList = some [.command (.init .rtu true)] ∧
    asmLine "reqw 0x7D".toList = some [.command (.requestWrite 125)] ∧
    asmLine "PB 0 = 05 03".toList = some [.pb 0 [0x05#8, 0x03#8]] ∧
    asmLine "RD PB 0..7".toList = some [.rdPb 0 7] ∧
    asmLine "T> read -> Success [FF FF]".toList = some [.answer (.read 0 [0xFF#8, 0xFF#8])] ∧
    asmLine "SEND 3A".toList = some [.pb 0 [0x3A#8], .command (.requestWrite 1), .wait] ∧
    asmLine "INIT idle".toList = none := by
  decide +kernel

/-- PBUF's last cell is a line's last (20_memory.md R51, log 20). -/
theorem test_line_ends :
    asmLine "PB 255 = 01".toList = some [.pb 255 [0x01#8]] ∧ asmLine "PB 255 = 01 02".toList = none ∧
    asmSendLine (List.replicate 256 0x00#8) = some (asmSend (List.replicate 256 0x00#8)) ∧
    asmSendLine (List.replicate 257 0x00#8) = none ∧
    asmRecvRest 256 0x00000010#32 = [.rdPb 0 256] ∧ asmRecvRest 257 0x00000010#32 = [] := by
  decide +kernel

/-! ## Witnesses: states and operands that meet the hypotheses of each obligation -/

/-- `s` with these inputs to come. -/
def given (s : State) (is : List Input) : State := s.withInputs is

/-- A READY state that satisfies the invariant, whatever its inputs. -/
theorem inv_readyA (is : List Input) : (given readyA is).Inv where
  paramsOk := show readyA.params.Ok by decide +kernel
  pbufWf := by simp [given, readyA, State.withInputs, State.reset]
  pbufBound := by simp [given, readyA, State.withInputs, State.reset]
  wbWf := by simp [given, readyA, State.withInputs, State.reset]
  wbBound := by simp [given, readyA, State.withInputs, State.reset]
  faultCoded := by simp [given, readyA, State.withInputs, State.reset]
  uninitialised := by simp [given, readyA, State.withInputs]
  rtuHasIdle := by simp [given, readyA, State.withInputs, State.reset]
  phaseOk := ⟨rfl, rfl⟩

theorem inv_readyR (is : List Input) : (given readyR is).Inv where
  paramsOk := show readyR.params.Ok by decide +kernel
  pbufWf := by simp [given, readyR, State.withInputs, State.reset]
  pbufBound := by simp [given, readyR, State.withInputs, State.reset]
  wbWf := by simp [given, readyR, State.withInputs, State.reset]
  wbBound := by simp [given, readyR, State.withInputs, State.reset]
  faultCoded := by simp [given, readyR, State.withInputs, State.reset]
  uninitialised := by simp [given, readyR, State.withInputs]
  rtuHasIdle := by simp [given, readyR, State.withInputs]
  phaseOk := ⟨rfl, rfl⟩

theorem inv_reset (is : List Input) : (given .reset is).Inv where
  paramsOk := show State.reset.params.Ok by decide +kernel
  pbufWf := by simp [given, State.withInputs, State.reset]
  pbufBound := by simp [given, State.withInputs, State.reset]
  wbWf := by simp [given, State.withInputs, State.reset]
  wbBound := by simp [given, State.withInputs, State.reset]
  faultCoded := by simp [given, State.withInputs, State.reset]
  uninitialised := by simp [given, State.withInputs, State.reset]
  rtuHasIdle := by simp [given, State.withInputs, State.reset]
  phaseOk := ⟨rfl, rfl⟩

theorem inv_writingA (is : List Input) : (given writingA is).Inv where
  paramsOk := show writingA.params.Ok by decide +kernel
  pbufWf := show Memory.wf writingA.pbuf by decide +kernel
  pbufBound := show ∀ c ∈ writingA.pbuf, c.1 < writingA.params.pbufCap by decide +kernel
  wbWf := show Memory.wf writingA.wb by decide +kernel
  wbBound := show ∀ c ∈ writingA.wb, c.1 < writingA.params.wbCap by decide +kernel
  faultCoded := show writingA.fault = false ↔ writingA.faultCode = .none by decide +kernel
  uninitialised := show writingA.initDone = false → _ from fun h => absurd h (by decide +kernel)
  rtuHasIdle := show writingA.mode = .rtu → writingA.idleEn = true by decide +kernel
  phaseOk := by
    have h : writingA.phase = .waitWrite := by decide +kernel
    show writingA.PhaseOk
    simp only [State.PhaseOk, h, State.LatchOk]
    decide +kernel

theorem inv_writingR (is : List Input) : (given writingR is).Inv where
  paramsOk := show writingR.params.Ok by decide +kernel
  pbufWf := show Memory.wf writingR.pbuf by decide +kernel
  pbufBound := show ∀ c ∈ writingR.pbuf, c.1 < writingR.params.pbufCap by decide +kernel
  wbWf := show Memory.wf writingR.wb by decide +kernel
  wbBound := show ∀ c ∈ writingR.wb, c.1 < writingR.params.wbCap by decide +kernel
  faultCoded := show writingR.fault = false ↔ writingR.faultCode = .none by decide +kernel
  uninitialised := show writingR.initDone = false → _ from fun h => absurd h (by decide +kernel)
  rtuHasIdle := show writingR.mode = .rtu → writingR.idleEn = true by decide +kernel
  phaseOk := by
    have h : writingR.phase = .waitWrite := by decide +kernel
    show writingR.PhaseOk
    simp only [State.PhaseOk, h, State.LatchOk]
    decide +kernel

theorem inv_idlingR (is : List Input) : (given idlingR is).Inv where
  paramsOk := show idlingR.params.Ok by decide +kernel
  pbufWf := show Memory.wf idlingR.pbuf by decide +kernel
  pbufBound := show ∀ c ∈ idlingR.pbuf, c.1 < idlingR.params.pbufCap by decide +kernel
  wbWf := show Memory.wf idlingR.wb by decide +kernel
  wbBound := show ∀ c ∈ idlingR.wb, c.1 < idlingR.params.wbCap by decide +kernel
  faultCoded := show idlingR.fault = false ↔ idlingR.faultCode = .none by decide +kernel
  uninitialised := show idlingR.initDone = false → _ from fun h => absurd h (by decide +kernel)
  rtuHasIdle := show idlingR.mode = .rtu → idlingR.idleEn = true by decide +kernel
  phaseOk := by
    have h : idlingR.phase = .waitIdle := by decide +kernel
    show idlingR.PhaseOk
    simp only [State.PhaseOk, h, State.LatchOk]
    decide +kernel

theorem inv_readingA (is : List Input) : (given readingA is).Inv where
  paramsOk := show readingA.params.Ok by decide +kernel
  pbufWf := show Memory.wf readingA.pbuf by decide +kernel
  pbufBound := show ∀ c ∈ readingA.pbuf, c.1 < readingA.params.pbufCap by decide +kernel
  wbWf := show Memory.wf readingA.wb by decide +kernel
  wbBound := show ∀ c ∈ readingA.wb, c.1 < readingA.params.wbCap by decide +kernel
  faultCoded := show readingA.fault = false ↔ readingA.faultCode = .none by decide +kernel
  uninitialised := show readingA.initDone = false → _ from fun h => absurd h (by decide +kernel)
  rtuHasIdle := show readingA.mode = .rtu → readingA.idleEn = true by decide +kernel
  phaseOk := by
    have h : readingA.phase = .waitRead := by decide +kernel
    show readingA.PhaseOk
    simp only [State.PhaseOk, h, State.LatchOk]
    decide +kernel

theorem inv_readingR (is : List Input) : (given readingR is).Inv where
  paramsOk := show readingR.params.Ok by decide +kernel
  pbufWf := show Memory.wf readingR.pbuf by decide +kernel
  pbufBound := show ∀ c ∈ readingR.pbuf, c.1 < readingR.params.pbufCap by decide +kernel
  wbWf := show Memory.wf readingR.wb by decide +kernel
  wbBound := show ∀ c ∈ readingR.wb, c.1 < readingR.params.wbCap by decide +kernel
  faultCoded := show readingR.fault = false ↔ readingR.faultCode = .none by decide +kernel
  uninitialised := show readingR.initDone = false → _ from fun h => absurd h (by decide +kernel)
  rtuHasIdle := show readingR.mode = .rtu → readingR.idleEn = true by decide +kernel
  phaseOk := by
    have h : readingR.phase = .waitRead := by decide +kernel
    show readingR.PhaseOk
    simp only [State.PhaseOk, h, State.LatchOk]
    decide +kernel

/-! Encoding and acceptance -/

theorem witness_DecodeEncodeRoundTrip :
    (Instr.init .rtu true).WellFormed ∧ (Instr.requestWrite 65535).WellFormed ∧ (Instr.answerRead 65535).WellFormed :=
  ⟨trivial, show 65535 < 2 ^ Config.lenWidth by decide, show 65535 < 2 ^ Config.lenWidth by decide⟩

theorem witness_EncodeDecodeRoundTrip : decode 0x1000FFFF#32 = .ok (.requestWrite 65535) := rfl

/-- One word for each clause, at the edge of its range. -/
theorem witness_DecodeClassifiesEveryWord :
    decode 0x00030000#32 = .ok (.init .rtu true) ∧ decode 0x1000FFFF#32 = .ok (.requestWrite 65535) ∧
    decode 0x2000FFFF#32 = .ok (.answerRead 65535) ∧ decode 0x30000000#32 = .error .reservedOpcode ∧
    decode 0x00040000#32 = .error .reservedBits ∧ decode 0x28000000#32 = .error .reservedBits := by
  refine ⟨?_, ?_, ?_, ?_, ?_, ?_⟩ <;> rfl

theorem witness_StepRunsTheDecodedCommand :
    (given readyA [submitWord 0x20000007#32]).params.Ok ∧ (given readyA [submitWord 0x20000007#32]).refused = false ∧
    (given readyA [submitWord 0x20000007#32]).inputs = .host (.write 0x000#9 32 0x20000007#32) :: [] ∧
    decode 0x20000007#32 = .ok (.answerRead 7) ∧ readyA.params.lenW = 16 ∧
    (given narrowA [submitWord 0x20000200#32]).params.Ok ∧ (given narrowA [submitWord 0x20000200#32]).refused = false ∧
    (given narrowA [submitWord 0x20000200#32]).inputs = .host (.write 0x000#9 32 0x20000200#32) :: [] ∧
    decode 0x20000200#32 = .ok (.answerRead 512) ∧ 2 ^ narrowA.params.lenW ≤ 512 ∧
    decode 0x200001FF#32 = .ok (.answerRead 511) ∧ 511 < 2 ^ narrowA.params.lenW :=
  ⟨by decide, rfl, rfl, rfl, rfl, by decide, rfl, rfl, rfl, by decide, rfl, by decide⟩

theorem witness_AcceptanceChecksInOrder :
    decode 0x3FFFFFFF#32 = .error .reservedOpcode ∧ decode 0x10010000#32 = .error .reservedBits ∧
    (writingA.params.lenW = 16 ∧ readyA.params.lenW = 16 ∧ State.reset.params.lenW = 16) ∧
    (decode 0x20000000#32 = .ok (.answerRead 0) ∧ writingA.phase ≠ .ready) ∧
    (decode 0x00010000#32 = .ok (.init .rtu false) ∧ readyA.phase = .ready ∧ readyA.initDone = true) ∧
    (decode 0x00010000#32 = .ok (.init .rtu false) ∧ State.reset.phase = .ready ∧ State.reset.initDone = false) ∧
    (decode 0x10000000#32 = .ok (.requestWrite 0) ∧ State.reset.initDone = false ∧
      ∀ m b, Instr.requestWrite 0 ≠ .init m b) ∧
    (decode 0x00030000#32 = .ok (.init .rtu true) ∧ State.reset.initDone = false ∧
      Instr.init .rtu true ≠ .init .rtu false) ∧
    (decode 0x2000FFFF#32 = .ok (.answerRead 65535) ∧ readyA.initDone = true ∧
      ∀ m b, Instr.answerRead 65535 ≠ .init m b) :=
  ⟨rfl, rfl, by decide +kernel, ⟨rfl, by decide +kernel⟩, ⟨rfl, rfl, rfl⟩, ⟨rfl, rfl, rfl⟩, ⟨rfl, rfl, nofun⟩, ⟨rfl, rfl, nofun⟩,
    ⟨rfl, rfl, nofun⟩⟩

theorem witness_ReservedEncodingIsAFault :
    3 ≤ ((0x30000000#32).extractLsb' 28 4).toNat ∧ 3 ≤ ((0xF0000000#32).extractLsb' 28 4).toNat ∧
    ((0x00040000#32).extractLsb' 28 4 = 0#4 ∧ 0x00040000#32 &&& 0x0FFCFFFF#32 ≠ 0#32) ∧
    ((0x18000000#32).extractLsb' 28 4 = 1#4 ∧ 0x18000000#32 &&& 0x0FFF0000#32 ≠ 0#32) ∧
    ((0x20010000#32).extractLsb' 28 4 = 2#4 ∧ 0x20010000#32 &&& 0x0FFF0000#32 ≠ 0#32) := by decide

/-! The commands -/

theorem witness_InitStoresTheParameters :
    State.reset.phase = .ready ∧ State.reset.initDone = false ∧ (Mode.rtu = .rtu → true = true) ∧
    (Mode.ascii = .rtu → false = true) := by decide

theorem witness_OversizeFrameGivesNoBufferSpace :
    (readyA.phase = .ready ∧ readyA.initDone = true ∧ readyA.params.wbCap < flen readyA.mode 126) ∧
    (readyR.phase = .ready ∧ readyR.initDone = true ∧ readyR.params.wbCap < flen readyR.mode 255) := by decide

theorem witness_RequestWriteAsciiIssuesTheFrame :
    (loaded readyA).phase = .ready ∧ (loaded readyA).initDone = true ∧ (loaded readyA).mode = .ascii ∧
    2 * payload6.length + 5 ≤ (loaded readyA).params.wbCap ∧
    ∀ i, i < payload6.length → Memory.read (loaded readyA).pbuf i = payload6[i]? := by decide +kernel

theorem witness_RequestWriteRtuIssuesTheFrame :
    (loaded readyR).phase = .ready ∧ (loaded readyR).initDone = true ∧ (loaded readyR).mode = .rtu ∧
    payload6.length + 2 ≤ (loaded readyR).params.wbCap ∧
    ∀ i, i < payload6.length → Memory.read (loaded readyR).pbuf i = payload6[i]? := by decide +kernel

theorem witness_UnwrittenPayloadRunsAndRecordsM1 :
    (loaded readyA).phase = .ready ∧ (loaded readyA).initDone = true ∧
    flen (loaded readyA).mode 125 ≤ (loaded readyA).params.wbCap ∧
    ∃ i, i < 125 ∧ Memory.read (loaded readyA).pbuf i = none :=
  ⟨rfl, rfl, by decide, 6, by decide, by decide⟩

theorem witness_AnswerReadIssuesTheRead :
    (readyA.phase = .ready ∧ readyA.initDone = true ∧ flen readyA.mode 125 ≤ readyA.params.wbCap) ∧
    (readyR.phase = .ready ∧ readyR.initDone = true ∧ flen readyR.mode 254 ≤ readyR.params.wbCap) := by decide

theorem witness_CommandsLeaveTheRestUnchanged :
    (∃ t, exec (.init .rtu true) State.reset = .next t) ∧ (∃ t, exec (.requestWrite 6) (loaded readyA) = .next t) ∧
    (∃ t, exec (.requestWrite 6) (loaded readyR) = .next t) ∧ (∃ t, exec (.answerRead 7) readyR = .next t) :=
  ⟨⟨_, rfl⟩, ⟨_, rfl⟩, ⟨_, rfl⟩, ⟨_, rfl⟩⟩

theorem witness_LargestPayloads :
    (readyA.phase = .ready ∧ readyA.initDone = true ∧ readyA.params = Config.defaults ∧
      ((readyA.mode = .ascii → 126 ≤ 126) ∧ (readyA.mode = .rtu → 255 ≤ 126)) ∧
      ((readyA.mode = .ascii → 125 ≤ 125) ∧ (readyA.mode = .rtu → 125 ≤ 254))) ∧
    (readyR.phase = .ready ∧ readyR.initDone = true ∧ readyR.params = Config.defaults ∧
      ((readyR.mode = .ascii → 126 ≤ 255) ∧ (readyR.mode = .rtu → 255 ≤ 255)) ∧
      ((readyR.mode = .ascii → 254 ≤ 125) ∧ (readyR.mode = .rtu → 254 ≤ 254))) := by decide

/-! The transport -/

theorem witness_AsciiWriteAnswerFinishes :
    writingA.params.Ok ∧ writingA.refused = false ∧ writingA.mode = .ascii ∧
    (given writingA [.transport (.write 2)]).inputs = .transport (.write 2) :: [] ∧
    writingA.tcall = some (.write [0x3A#8, 0x30#8, 0x30#8, 0x0D#8, 0x0A#8] 5 100) ∧
    0 < 3 ∧ 1 < 3 ∧ 2 < 3 := by decide +kernel

theorem witness_RtuWriteIsFollowedByIdle :
    (writingR.params.Ok ∧ writingR.refused = false ∧ writingR.mode = .rtu ∧
      writingR.tcall = some (.write [0xFF#8, 0xFF#8] 2 100) ∧
      (given writingR [.transport (.write 0)]).inputs = .transport (.write 0) :: [] ∧
      (given writingR [.transport (.write 1)]).inputs = .transport (.write 1) :: [] ∧
      (given writingR [.transport (.write 2)]).inputs = .transport (.write 2) :: []) ∧
    (idlingR.params.Ok ∧ idlingR.refused = false ∧ idlingR.mode = .rtu ∧ idlingR.tcall = some (.idle 2) ∧
      (given idlingR [.transport .idle]).inputs = .transport .idle :: []) := by decide +kernel

theorem witness_TransportFailureEndsTheCommand :
    (writingR.params.Ok ∧ writingR.refused = false ∧ writingR.tcall = some (.write [0xFF#8, 0xFF#8] 2 100) ∧
      (given writingR [.transport (.write 1)]).inputs = .transport (.write 1) :: []) ∧
    (readingA.params.Ok ∧ readingA.refused = false ∧ readingA.tcall = some (.read 7 100) ∧
      (given readingA [.transport (.read 2 [])]).inputs = .transport (.read 2 []) :: []) := by decide +kernel

/-- The good frame and the bad one. -/
theorem witness_ReceivedFrameIsDecodedAndDelivered (f : List Byte) (h : f = frameFF ∨ f = frameff) :
    (given readingA [.transport (.read 0 f)]).Inv ∧ (given readingA [.transport (.read 0 f)]).refused = false ∧
    (given readingA [.transport (.read 0 f)]).phase = .waitRead ∧
    (given readingA [.transport (.read 0 f)]).inputs = .transport (.read 0 f) :: [] ∧
    f.length = (given readingA [.transport (.read 0 f)]).curFlen.toNat ∧
    (f = frameFF → decodeFrame readingA.params.hexSentinel readingA.mode f readingA.curN.toNat = .ok [0xFF#8]) ∧
    (f = frameff → decodeFrame readingA.params.hexSentinel readingA.mode f readingA.curN.toNat = .bad) := by
  refine ⟨inv_readingA _, ?_, ?_, rfl, ?_, ?_, ?_⟩
  · show readingA.refused = false; decide +kernel
  · show readingA.phase = .waitRead; decide +kernel
  · show f.length = readingA.curFlen.toNat
    rcases h with rfl | rfl <;> decide +kernel
  · rintro rfl; decide +kernel
  · rintro rfl; decide +kernel

theorem witness_TransportViolationIsDiscarded :
    (readyA.params.Ok ∧ readyA.refused = false ∧ readyA.tcall = none) ∧
    (writingA.params.Ok ∧ writingA.refused = false ∧
      writingA.tcall = some (.write [0x3A#8, 0x30#8, 0x30#8, 0x0D#8, 0x0A#8] 5 100) ∧
      (∀ cb, TransportAnswer.write 3 = .write cb → 3 ≤ cb) ∧ ∀ cb, TransportAnswer.idle = .write cb → 3 ≤ cb) ∧
    (readingA.params.Ok ∧ readingA.refused = false ∧ readingA.tcall = some (.read 7 100) ∧
      (∀ cb bs, TransportAnswer.read 0 [0x3A#8] = .read cb bs → 3 ≤ cb ∨ cb = 0 ∧ bs.length ≠ 7) ∧
      ∀ cb bs, TransportAnswer.read 3 [] = .read cb bs → 3 ≤ cb ∨ cb = 0 ∧ bs.length ≠ 7) ∧
    (idlingR.params.Ok ∧ idlingR.refused = false ∧ idlingR.tcall = some (.idle 2) ∧ TransportAnswer.write 0 ≠ .idle) := by
  refine ⟨by decide, ⟨by decide +kernel, by decide +kernel, by decide +kernel, ?_, nofun⟩,
    ⟨by decide +kernel, by decide +kernel, by decide +kernel, ?_, ?_⟩, by decide +kernel⟩
  · rintro cb ⟨⟩; decide
  · rintro cb bs ⟨⟩; decide
  · rintro cb bs ⟨⟩; decide

theorem witness_NoInputNoChange :
    writingA.params.Ok ∧ writingA.refused = false ∧ writingA.inputs = [] := by decide +kernel

theorem witness_CommandEndsIfTransportAnswers :
    ((given writingR [.transport (.write 0)]).Inv ∧ writingR.refused = false ∧
      writingR.tcall = some (.write [0xFF#8, 0xFF#8] 2 100) ∧
      (TransportCall.write [0xFF#8, 0xFF#8] 2 100).accepts (.write 0) = true) ∧
    ((given readingA [.transport (.read 0 frameFF)]).Inv ∧ readingA.refused = false ∧
      readingA.tcall = some (.read 7 100) ∧ (TransportCall.read 7 100).accepts (.read 0 frameFF) = true) ∧
    ((given idlingR [.transport .idle]).Inv ∧ idlingR.refused = false ∧ idlingR.tcall = some (.idle 2) ∧
      (TransportCall.idle 2).accepts .idle = true) :=
  ⟨⟨inv_writingR _, by decide +kernel⟩, ⟨inv_readingA _, by decide +kernel⟩, ⟨inv_idlingR _, by decide +kernel⟩⟩

/-! Checksums and codecs -/

theorem witness_LrcLaws :
    ([0x80#8, 0x80#8].map BitVec.toNat).sum % 256 = 0 ∧ [0x01#8, 0x02#8].Perm [0x02#8, 0x01#8] ∧
    [0x01#8, 0x02#8][1]? ≠ none ∧ [0x01#8, 0x02#8][1]? ≠ some 0xFF#8 :=
  ⟨by decide, .swap _ _ _, by decide, by decide⟩

theorem witness_AsciiFrameLayout : payload6[0]? = some 0x05#8 ∧ payload6[5]? = some 0x02#8 := by decide

theorem witness_AsciiFrameHoldsOnlyUppercaseDigits :
    1 ≤ 2 ∧ 2 < 2 * [0xFF#8].length + 3 ∧ (asciiEncode [0xFF#8])[2]? = some 0x46#8 := by decide

theorem witness_AsciiDecoderAcceptsExactlyEncodedFrames :
    frameFF.length = 2 * 1 + 5 ∧ asciiDecode 0xFF#8 frameFF 1 = .ok [0xFF#8] := by decide

/-- A delimiter, a payload digit, an LRC digit. -/
theorem witness_AsciiDetectsEverySingleBitFlip :
    5 < 8 ∧ (asciiEncode [0xFF#8])[0]? = some 0x3A#8 ∧ (asciiEncode [0xFF#8])[1]? = some 0x46#8 ∧
    (asciiEncode [0xFF#8])[4]? = some 0x31#8 ∧ (asciiEncode [0xFF#8])[6]? = some 0x0A#8 := by decide

theorem witness_RtuFrameLayout : 0 < payload6.length ∧ 5 < payload6.length := by decide

theorem witness_RtuDecoderAcceptsExactlyEncodedFrames :
    [0xFF#8, 0xFF#8, 0x00#8, 0x00#8].length = 2 + 2 ∧
    rtuDecode [0xFF#8, 0xFF#8, 0x00#8, 0x00#8] 2 = .ok [0xFF#8, 0xFF#8] := by decide +kernel

theorem witness_RtuDetectsEverySingleBitFlip :
    7 < 8 ∧ (rtuEncode [0xFF#8, 0xFF#8])[0]? = some 0xFF#8 ∧ (rtuEncode [0xFF#8, 0xFF#8])[3]? = some 0x00#8 := by
  decide +kernel

/-! The host's registers -/

/-- A state for each code. -/
theorem witness_StatusWordFields (r : ProtocolResult) (k : FaultCode) :
    ({ State.reset with result := r, faultCode := k } : State).result = r ∧
    ({ State.reset with result := r, faultCode := k } : State).faultCode = k := ⟨rfl, rfl⟩

theorem witness_RegisterReads :
    readyA.params.Ok ∧ readyA.refused = false ∧
    (given readyA [.host (.read 0x000#9 32)]).inputs = .host (.read 0x000#9 32) :: [] ∧
    (given readyA [.host (.read 0x004#9 32)]).inputs = .host (.read 0x004#9 32) :: [] := by decide

/-- Both ends of the reserved range, and, with a smaller PBUF, the range above it. -/
theorem witness_ReservedOffsetIsAFault :
    (readyA.params.Ok ∧ readyA.refused = false ∧ 0x008 ≤ (0x008#9).toNat ∧ (0x008#9).toNat < 0x100 ∧
      0x008 ≤ (0x0FF#9).toNat ∧ (0x0FF#9).toNat < 0x100) ∧
    (Config.Params.Ok { Config.defaults with pbufCap := 254 } ∧ 0x100 + 254 ≤ (0x1FE#9).toNat) ∧
    (given readyA [.host (.write 0x0FF#9 8 0#32)]).inputs = .host (.write 0x0FF#9 8 0#32) :: [] ∧
    (given readyA [.host (.read 0x008#9 32)]).inputs = .host (.read 0x008#9 32) :: [] := by decide

theorem witness_BadAccessIsAFault :
    readyA.params.Ok ∧ readyA.refused = false ∧
    ((0x003#9).toNat < 0x004 ∧ ¬ (0x003#9 = 0x000#9 ∧ 32 = 32)) ∧ ((0x000#9).toNat < 0x004 ∧ ¬ (0x000#9 = 0x000#9 ∧ 8 = 32)) ∧
    (0x004 ≤ (0x004#9).toNat ∧ (0x004#9).toNat < 0x008) ∧
    (0x004 ≤ (0x007#9).toNat ∧ (0x007#9).toNat < 0x008 ∧ ¬ (0x007#9 = 0x004#9 ∧ 32 = 32)) ∧
    (0x100 ≤ (0x100#9).toNat ∧ (0x1FF#9).toNat < 0x100 + readyA.params.pbufCap ∧ 32 ≠ 8 ∧ readyA.phase = .ready) ∧
    (given readyA [.host (.write 0x100#9 32 0#32)]).inputs = .host (.write 0x100#9 32 0#32) :: [] ∧
    (given readyA [.host (.read 0x007#9 32)]).inputs = .host (.read 0x007#9 32) :: [] ∧
    (writingA.params.Ok ∧ writingA.refused = false ∧ writingA.phase ≠ .ready ∧
      0x100 ≤ (0x1FF#9).toNat ∧ (0x1FF#9).toNat < 0x100 + writingA.params.pbufCap ∧ 16 ≠ 8 ∧
      (given writingA [.host (.write 0x1FF#9 16 0#32)]).inputs = .host (.write 0x1FF#9 16 0#32) :: []) := by
  decide +kernel

theorem witness_HostAccessesPbufByteWise :
    (loaded readyA).params.Ok ∧ (loaded readyA).refused = false ∧ (loaded readyA).phase = .ready ∧
    0x100 ≤ (0x100#9).toNat ∧ (0x1FF#9).toNat < 0x100 + (loaded readyA).params.pbufCap ∧
    (given (loaded readyA) [.host (.write 0x1FF#9 8 0#32)]).inputs = .host (.write 0x1FF#9 8 0#32) :: [] ∧
    (given (loaded readyA) [.host (.read 0x100#9 8)]).inputs = .host (.read 0x100#9 8) :: [] ∧
    Memory.read (loaded readyA).pbuf ((0x100#9).toNat - 0x100) = some 0x05#8 := by decide

theorem witness_PbufIsTheBlocksWhileBusy :
    writingA.params.Ok ∧ writingA.refused = false ∧ writingA.phase ≠ .ready ∧
    0x100 ≤ (0x105#9).toNat ∧ (0x105#9).toNat < 0x100 + writingA.params.pbufCap ∧
    (given writingA [.host (.write 0x105#9 8 0#32)]).inputs = .host (.write 0x105#9 8 0#32) :: [] ∧
    (given writingA [.host (.read 0x105#9 8)]).inputs = .host (.read 0x105#9 8) :: [] := by decide +kernel

theorem witness_UnwrittenCellReadRecordsM1 :
    (loaded readyA).params.Ok ∧ (loaded readyA).refused = false ∧ (loaded readyA).phase = .ready ∧
    0x100 ≤ (0x106#9).toNat ∧ (0x106#9).toNat < 0x100 + (loaded readyA).params.pbufCap ∧
    Memory.read (loaded readyA).pbuf ((0x106#9).toNat - 0x100) = none ∧
    (given (loaded readyA) [.host (.read 0x106#9 8)]).inputs = .host (.read 0x106#9 8) :: [] := by decide

/-! Reset and parameters -/

theorem witness_ResetEvent :
    (readyA.params.Ok ∧ readyA.refused = false ∧ readyA.phase = .ready ∧ (given readyA [.reset]).inputs = .reset :: []) ∧
    (writingA.params.Ok ∧ writingA.refused = false ∧ writingA.phase ≠ .ready ∧
      (given writingA [.reset]).inputs = .reset :: []) := by decide +kernel

/-- Each constraint broken alone, by one. -/
theorem witness_BadParametersAreRefused :
    ({ Config.defaults with pbufCap := 253 } : Config.Params).pbufCap < Config.defaults.wbCap - 2 ∧
    2 ^ ({ Config.defaults with lenW := 8 } : Config.Params).lenW - 1 < Config.defaults.wbCap ∧
    16 < ({ Config.defaults with lenW := 17 } : Config.Params).lenW ∧
    State.reset.refused = false ∧ ({ State.reset with refused := true } : State).refused = true ∧
    State.reset.params = Config.defaults ∧
    (∃ t, step (given writingA [.reset]) = .next t ∧ t.refused = true ∧ writingA.params = Config.defaults) :=
  ⟨by decide, by decide, by decide, rfl, rfl, rfl, _, rfl, by decide +kernel, by decide +kernel⟩

/-! The whole machine -/

theorem witness_StepKeepsInvariant :
    (given readyA [submitWord 0x20000001#32]).Inv ∧
    step (given readyA [submitWord 0x20000001#32]) = .next readingA :=
  ⟨inv_readyA _, rfl⟩

theorem witness_CallOutstandingExactlyWhenBusy : (given writingA []).Inv ∧ (given readyA []).Inv :=
  ⟨inv_writingA _, inv_readyA _⟩

theorem witness_ConfigurationIsSetOnce :
    (∃ t, step (given readyA [submitWord 0x00030000#32]) = .next t ∧
      (given readyA [submitWord 0x00030000#32]).inputs.head? ≠ some .reset ∧
      (given readyA [submitWord 0x00030000#32]).initDone = true) ∧
    (∃ t, step (given .reset [submitWord 0x00030000#32]) = .next t ∧
      (given .reset [submitWord 0x00030000#32]).inputs.head? ≠ some .reset ∧ t.initDone ≠ State.reset.initDone) :=
  ⟨⟨_, rfl, by decide, rfl⟩, ⟨_, rfl, by decide, by decide⟩⟩

/-- One step for each transition. -/
theorem witness_PhaseTransitions :
    ((given readyA [submitWord 0x10000000#32]).Inv ∧
      step (given readyA [submitWord 0x10000000#32]) = .next writingA ∧ readyA.phase ≠ writingA.phase) ∧
    ((given readyA [submitWord 0x20000001#32]).Inv ∧
      step (given readyA [submitWord 0x20000001#32]) = .next readingA ∧ readyA.phase ≠ readingA.phase) ∧
    ((given writingR [.transport (.write 0)]).Inv ∧
      step (given writingR [.transport (.write 0)]) = .next idlingR ∧ writingR.phase ≠ idlingR.phase) ∧
    ((given writingA [.transport (.write 2)]).Inv ∧
      step (given writingA [.transport (.write 2)]) = .next (after writingA (.transport (.write 2))) ∧
      writingA.phase ≠ (after writingA (.transport (.write 2))).phase) ∧
    ((given idlingR [.transport .idle]).Inv ∧
      step (given idlingR [.transport .idle]) = .next (after idlingR (.transport .idle)) ∧
      idlingR.phase ≠ (after idlingR (.transport .idle)).phase) ∧
    ((given readingA [.transport (.read 1 [])]).Inv ∧
      step (given readingA [.transport (.read 1 [])]) = .next (after readingA (.transport (.read 1 []))) ∧
      readingA.phase ≠ (after readingA (.transport (.read 1 []))).phase) :=
  ⟨⟨inv_readyA _, rfl, by decide +kernel⟩, ⟨inv_readyA _, rfl, by decide +kernel⟩,
    ⟨inv_writingR _, rfl, by decide +kernel⟩, ⟨inv_writingA _, rfl, by decide +kernel⟩,
    ⟨inv_idlingR _, rfl, by decide +kernel⟩, ⟨inv_readingA _, rfl, by decide +kernel⟩⟩

theorem witness_FaultedActionHasNoOtherEffect :
    step (given readyA [.host (.read 0x008#9 32)]) = .next (after readyA (.host (.read 0x008#9 32))) ∧
    (given readyA [.host (.read 0x008#9 32)]).fault = false ∧ (after readyA (.host (.read 0x008#9 32))).fault = true :=
  ⟨rfl, rfl, rfl⟩

theorem witness_FirstFaultIsSticky :
    ∃ t, step (given (after readyA (.host (.read 0x008#9 32))) [submitWord 0x00000000#32]) = .next t ∧
      (given (after readyA (.host (.read 0x008#9 32))) [submitWord 0x00000000#32]).inputs.head? ≠ some .reset ∧
      (given (after readyA (.host (.read 0x008#9 32))) [submitWord 0x00000000#32]).fault = true :=
  ⟨_, rfl, by decide, rfl⟩

/-- NoBufferSpace at acceptance, and Corrupted at the end of a read. -/
theorem witness_ResultIsWrittenOnlyByFinish :
    ((given readyA [submitWord 0x1000007E#32]).Inv ∧
      step (given readyA [submitWord 0x1000007E#32]) = .next (after readyA (submitWord 0x1000007E#32)) ∧
      (given readyA [submitWord 0x1000007E#32]).inputs.head? ≠ some .reset ∧
      (after readyA (submitWord 0x1000007E#32)).result ≠ readyA.result) ∧
    ((given readingA [.transport (.read 0 frameff)]).Inv ∧
      step (given readingA [.transport (.read 0 frameff)]) = .next (after readingA (.transport (.read 0 frameff))) ∧
      (given readingA [.transport (.read 0 frameff)]).inputs.head? ≠ some .reset ∧
      (after readingA (.transport (.read 0 frameff))).result ≠ readingA.result) :=
  ⟨⟨inv_readyA _, rfl, by decide, by decide +kernel⟩, ⟨inv_readingA _, rfl, by decide, by decide +kernel⟩⟩

/-- A host's write, and a frame delivered. -/
theorem witness_PbufChangesOnlyWhereTheRulesSay :
    ((given readyA [.host (.write 0x1FF#9 8 0x55#32)]).Inv ∧
      step (given readyA [.host (.write 0x1FF#9 8 0x55#32)]) = .next (after readyA (.host (.write 0x1FF#9 8 0x55#32))) ∧
      (given readyA [.host (.write 0x1FF#9 8 0x55#32)]).inputs.head? ≠ some .reset ∧
      Memory.read (after readyA (.host (.write 0x1FF#9 8 0x55#32))).pbuf 255 ≠ Memory.read readyA.pbuf 255) ∧
    ((given readingA [.transport (.read 0 frameFF)]).Inv ∧
      step (given readingA [.transport (.read 0 frameFF)]) = .next (after readingA (.transport (.read 0 frameFF))) ∧
      (given readingA [.transport (.read 0 frameFF)]).inputs.head? ≠ some .reset ∧
      Memory.read (after readingA (.transport (.read 0 frameFF))).pbuf 0 ≠ Memory.read readingA.pbuf 0) :=
  ⟨⟨inv_readyA _, rfl, by decide, by decide +kernel⟩, ⟨inv_readingA _, rfl, by decide, by decide +kernel⟩⟩

theorem witness_HostCannotDisturbACommandInFlight :
    writingA.params.Ok ∧ writingA.phase ≠ .ready ∧
    (given writingA [submitWord 0x20000000#32]).inputs.head? = some (.host (.write 0x000#9 32 0x20000000#32)) ∧
    step (given writingA [submitWord 0x20000000#32]) = .next (after writingA (submitWord 0x20000000#32)) :=
  ⟨by decide +kernel, by decide +kernel, rfl, rfl⟩

/-- An input that obeys and one that does not. -/
theorem witness_DutiesCharacteriseCleanSteps :
    ((given readyA [submitWord 0x20000001#32]).Inv ∧ readyA.clean = true ∧
      (given readyA [submitWord 0x20000001#32]).inputs = submitWord 0x20000001#32 :: [] ∧
      (submitWord 0x20000001#32).obeys readyA = true) ∧
    ((given writingA [submitWord 0x20000001#32]).Inv ∧ writingA.clean = true ∧
      (given writingA [submitWord 0x20000001#32]).inputs = submitWord 0x20000001#32 :: [] ∧
      (submitWord 0x20000001#32).obeys writingA = false) :=
  ⟨⟨inv_readyA _, by decide +kernel⟩, ⟨inv_writingA _, by decide +kernel⟩⟩

/-! End to end -/

theorem witness_FrameSentIsPayloadReceived :
    (∃ t, exec (.requestWrite payload6.length) (loaded readyR) = .next t ∧
      t.tcall = some (.write (rtuEncode payload6) 8 100)) ∧
    (loaded readyR).phase = .ready ∧ (loaded readyR).initDone = true ∧
    flen (loaded readyR).mode payload6.length ≤ (loaded readyR).params.wbCap ∧
    (∀ i, i < payload6.length → Memory.read (loaded readyR).pbuf i = payload6[i]?) ∧
    (given readyR [submitWord 0x20000006#32, .transport (.read 0 (rtuEncode payload6))]).Inv ∧
    readyR.refused = false ∧ readyR.phase = .ready ∧ readyR.initDone = true ∧ readyR.mode = (loaded readyR).mode ∧
    flen readyR.mode payload6.length ≤ readyR.params.wbCap ∧
    (given readyR [submitWord 0x20000006#32, .transport (.read 0 (rtuEncode payload6))]).inputs =
      .host (.write 0x000#9 32 (0x20000000#32 ||| BitVec.ofNat 32 payload6.length)) ::
        .transport (.read 0 (rtuEncode payload6)) :: [] :=
  ⟨⟨_, rfl, by decide +kernel⟩, rfl, rfl, by decide, by decide +kernel, inv_readyR _, rfl, rfl, rfl, rfl, by decide, rfl⟩

/-- The first bit of the frame flipped; the other hypotheses are those of the witness above. -/
theorem witness_FlippedFrameIsCorrupted :
    (∃ t, exec (.requestWrite payload6.length) (loaded readyR) = .next t ∧
      t.tcall = some (.write (rtuEncode payload6) 8 100)) ∧
    0 < 8 ∧ (rtuEncode payload6)[0]? = some 0x05#8 ∧
    (loaded readyR).phase = .ready ∧ (loaded readyR).initDone = true ∧
    flen (loaded readyR).mode payload6.length ≤ (loaded readyR).params.wbCap ∧
    (∀ i, i < payload6.length → Memory.read (loaded readyR).pbuf i = payload6[i]?) ∧
    (given readyR [submitWord 0x20000006#32, .transport (.read 0 ((rtuEncode payload6).set 0 0x04#8))]).Inv ∧
    readyR.refused = false ∧ readyR.phase = .ready ∧ readyR.initDone = true ∧ readyR.mode = (loaded readyR).mode ∧
    flen readyR.mode payload6.length ≤ readyR.params.wbCap ∧
    (given readyR [submitWord 0x20000006#32, .transport (.read 0 ((rtuEncode payload6).set 0 0x04#8))]).inputs =
      .host (.write 0x000#9 32 (0x20000000#32 ||| BitVec.ofNat 32 payload6.length)) ::
        .transport (.read 0 ((rtuEncode payload6).set 0 (0x05#8 ^^^ (1#8 <<< 0)))) :: [] :=
  ⟨⟨_, rfl, by decide +kernel⟩, by decide, by decide, rfl, rfl, by decide, by decide +kernel, inv_readyR _, rfl, rfl, rfl,
    rfl, by decide, rfl⟩

end Sys2Proof.Tests
end

section
/-! PROOFS. The scope family: parameters that break a constraint of 00_scope.md R9, and the mark of a refusal. -/

namespace Sys2Proof.Machine

variable {s t : State}

/-! Who sets the mark -/

@[simp] theorem State.sendFrame_refused (n : Nat) (s : State) : (s.sendFrame n).refused = s.refused := by
  simp [State.sendFrame]

@[simp] theorem State.awaitFrame_refused (n : Nat) (s : State) : (s.awaitFrame n).refused = s.refused := by
  simp [State.awaitFrame]

@[simp] theorem State.writeAnswered_refused (r : CallbackResult) (s : State) :
    (s.writeAnswered r).refused = s.refused := by
  rcases writeAnswered_cases r s with ⟨-, -, h⟩ | ⟨-, h⟩ <;> simp [h]

@[simp] theorem State.idleAnswered_refused (s : State) : s.idleAnswered.refused = s.refused := by
  simp [State.idleAnswered]

@[simp] theorem State.conclude_refused (n : Nat) (v : Verdict) (s : State) :
    (s.conclude n v).refused = s.refused := by
  rcases conclude_cases n v s with ⟨q, -, h⟩ | ⟨-, h⟩ <;> simp [h]

@[simp] theorem State.frameReceived_refused (bs : List Byte) (s : State) :
    (s.frameReceived bs).refused = s.refused := by
  simp [State.frameReceived]

@[simp] theorem State.readFailed_refused (r : CallbackResult) (s : State) :
    (s.readFailed r).refused = s.refused := by
  simp [State.readFailed]

/-- Of the inputs only a reset can set the mark (60_exceptions.md R221). -/
theorem takeInput_keeps_refused {e : Input} (he : e ≠ .reset) (h : takeInput e s = .next t) :
    t.refused = s.refused := by
  rcases takeInput_cases h with ⟨-, k, j, -, rfl | rfl⟩ | ⟨o, w, d, j, due, -, -, rfl⟩ |
    ⟨o, d, i, -, -, -, -, rfl⟩ | ⟨w, i, -, -, -, hcommand⟩ | ⟨a, c, -, -, hanswer⟩ | ⟨hreset, -⟩
  · simp
  · simp
  · simp
  · simp
  · rcases hcommand with ⟨m, b, -, -, -, rfl⟩ | ⟨n, -, -, -, rfl⟩ | ⟨n, -, -, -, rfl⟩ | ⟨n, -, -, -, rfl⟩ <;> simp
  · rcases hanswer with ⟨cb, r, -, -, -, rfl⟩ | ⟨-, -, rfl⟩ | ⟨bs, n, ms, -, -, -, rfl⟩ |
      ⟨cb, bs, r, -, -, -, -, rfl⟩ <;> simp
  · exact absurd hreset he

/-! Who is refused -/

/-- A host write always answers a next state: what is wrong with it is a recorded fault. -/
theorem hostWrite_next (offset : BitVec 9) (width : Nat) (data : Word) (s : State) :
    ∃ t, hostWrite offset width data s = .next t := by
  rcases hostWrite_cases offset width data s with ⟨-, -, h⟩ | ⟨i, -, -, -, h⟩ | ⟨k, j, -, h⟩
  · rw [h]
    rcases acceptWord_cases data s with ⟨e, -, h⟩ | ⟨i, -, h⟩
    · exact ⟨_, h⟩
    · rw [h]
      rcases exec_cases i s with ⟨k, -, h, -, -⟩ | ⟨m, b, -, -, -, -, h⟩ | ⟨n, -, -, -, -, h⟩ | ⟨n, -, -, -, -, h⟩ |
        ⟨n, -, -, -, -, h⟩ <;> exact ⟨_, h⟩
  · exact ⟨_, h⟩
  · exact ⟨_, h⟩

/-- Every input answers a next state; a refusal is `step`'s alone. -/
theorem takeInput_next (e : Input) (s : State) : ∃ t, takeInput e s = .next t := by
  match e with
  | .host (.write offset width data) => exact hostWrite_next offset width data s
  | .host (.read _ _) => exact ⟨_, rfl⟩
  | .transport _ => exact ⟨_, rfl⟩
  | .reset => exact ⟨_, rfl⟩

/-- A step is refused exactly when the state carries the mark. -/
theorem step_eq_refused_iff {r : Refusal} :
    step s = .refused r ↔ s.refused = true ∧ r = if s.params.Ok then .resetWhileBusy else .badParameters := by
  rcases step_cases s with ⟨hr, h⟩ | ⟨-, hr, h⟩ | ⟨-, hr, -, h⟩ | ⟨e, rest, -, hr, -, h⟩
  · simp [h, hr, eq_comm]
  · simp [h, hr]
  · simp [h, hr]
  · obtain ⟨t, ht⟩ := takeInput_next e (s.withInputs rest)
    simp [h, hr, ht]

/-- With parameters that satisfy 00_scope.md R9, a step to a state with the mark took a reset. -/
theorem reset_of_step_refused (hp : s.params.Ok) (h : step s = .next t) (ht : t.refused = true) :
    s.inputs.head? = some .reset := by
  have hs : s.refused = false := by
    cases hr : s.refused
    · rfl
    · rw [step_eq_refused_iff.2 ⟨hr, rfl⟩] at h; cases h
  rcases step_next h with ⟨hbad, -, -⟩ | ⟨-, -, rfl⟩ | ⟨e, rest, -, -, hi, htake⟩
  · exact absurd hp hbad
  · rw [hs] at ht; cases ht
  · by_cases he : e = .reset
    · rw [hi, he]; rfl
    · have hkeep := takeInput_keeps_refused he htake
      simp [hs, ht] at hkeep

/-! The parameters -/

/-- The constraints of 00_scope.md R9, broken: one of the three inequalities fails. -/
theorem not_paramsOk_iff {p : Config.Params} :
    ¬ p.Ok ↔ p.pbufCap < p.wbCap - 2 ∨ 2 ^ p.lenW - 1 < p.wbCap ∨ 16 < p.lenW := by
  rw [Config.Params.Ok, Config.lenWidth]
  omega

theorem defaults_ok : Config.defaults.Ok := by decide

/-- A state with bad parameters is marked first (log 10). -/
theorem step_of_badParams (hp : ¬ s.params.Ok) (hr : s.refused = false) : step s = .next s.markRefused := by
  rcases step_cases s with ⟨hr', -⟩ | ⟨-, -, h⟩ | ⟨hp', -⟩ | ⟨e, rest, hp', -⟩
  · rw [hr] at hr'; cases hr'
  · exact h
  · exact absurd hp' hp
  · exact absurd hp' hp

/-- Settles O46: bad parameters are the negation of `Config.Params.Ok`; under `Ok` a refusal is `resetWhileBusy`, and
no input but a reset touches the mark. -/
theorem badParametersAreRefused : Obligations.BadParametersAreRefused := by
  refine ⟨fun s hbad => ?_, fun s hdef => ?_⟩
  · have hp : ¬ s.params.Ok := not_paramsOk_iff.2 hbad
    exact ⟨step_of_badParams hp, fun hr => step_eq_refused_iff.2 ⟨hr, (if_neg hp).symm⟩⟩
  · have hp : s.params.Ok := hdef ▸ defaults_ok
    refine ⟨fun h => ?_, fun t => reset_of_step_refused hp⟩
    obtain ⟨-, hr⟩ := step_eq_refused_iff.1 h
    rw [if_pos hp] at hr
    cases hr

end Sys2Proof.Machine
end

section
/-! PROOFS. The registers the host sees: the STATUS word, a read of CMD, STATUS or an empty cell of PBUF, and the
command a write to CMD runs. -/

namespace Sys2Proof.Machine

variable {s : State}

/-! The STATUS word (10_state.md R23-R31) -/

/-- Every bit of the STATUS word, by its index. -/
theorem statusWord_getLsbD (s : State) (i : Nat) :
    s.statusWord.getLsbD i =
      if i < 3 then s.result.code.getLsbD i
      else if i = 3 then s.busy
      else if i = 4 then s.initDone
      else if i = 5 then s.mode.bit
      else if i = 6 then s.idleEn
      else if i = 7 then s.fault
      else if i < 12 then s.faultCode.code.getLsbD (i - 8)
      else false := by
  unfold State.statusWord
  simp only [BitVec.getLsbD_append, BitVec.getLsbD_ofBool, BitVec.getLsbD_zero, Nat.sub_sub]
  rcases Nat.lt_or_ge i 12 with h | h
  · interval_cases i <;> simp
  · obtain ⟨k, rfl⟩ := Nat.exists_eq_add_of_le' h
    simp

theorem statusWord_result (s : State) : s.statusWord.extractLsb' 0 3 = s.result.code := by
  refine BitVec.eq_of_getLsbD_eq fun i hi => ?_
  simp [statusWord_getLsbD, hi]

theorem statusWord_busy (s : State) : s.statusWord.getLsbD 3 = s.busy := statusWord_getLsbD s 3

theorem statusWord_initDone (s : State) : s.statusWord.getLsbD 4 = s.initDone := statusWord_getLsbD s 4

theorem statusWord_mode (s : State) : s.statusWord.getLsbD 5 = s.mode.bit := statusWord_getLsbD s 5

theorem statusWord_idleEn (s : State) : s.statusWord.getLsbD 6 = s.idleEn := statusWord_getLsbD s 6

theorem statusWord_fault (s : State) : s.statusWord.getLsbD 7 = s.fault := statusWord_getLsbD s 7

theorem statusWord_faultCode (s : State) : s.statusWord.extractLsb' 8 4 = s.faultCode.code := by
  refine BitVec.eq_of_getLsbD_eq fun i hi => ?_
  have hword : ¬ 8 + i < 3 ∧ 8 + i ≠ 3 ∧ 8 + i ≠ 4 ∧ 8 + i ≠ 5 ∧ 8 + i ≠ 6 ∧ 8 + i ≠ 7 ∧ 8 + i < 12 := by omega
  simp only [BitVec.getLsbD_extractLsb', statusWord_getLsbD, hi, hword, if_true, if_false, Nat.add_sub_cancel_left,
    decide_true, Bool.true_and]

theorem statusWord_reserved (s : State) : s.statusWord.extractLsb' 12 20 = 0#20 := by
  refine BitVec.eq_of_getLsbD_eq fun i hi => ?_
  have hword : ¬ 12 + i < 3 ∧ 12 + i ≠ 3 ∧ 12 + i ≠ 4 ∧ 12 + i ≠ 5 ∧ 12 + i ≠ 6 ∧ 12 + i ≠ 7 ∧ ¬ 12 + i < 12 := by
    omega
  simp [statusWord_getLsbD, hword]

theorem modeBit_iff {m : Mode} : m.bit = true ↔ m = .rtu := by
  cases m <;> decide

/-- Settles O37: each field of the word is its register, or its code (30_encoding.md R89, R91). -/
theorem statusWordFields : Obligations.StatusWordFields := by
  intro s
  simp only [statusWord_result, statusWord_busy, statusWord_initDone, statusWord_mode, statusWord_idleEn,
    statusWord_fault, statusWord_faultCode, statusWord_reserved, s.busy_iff, modeBit_iff, true_and, and_true]
  and_intros <;> intro h <;> rw [h] <;> rfl

/-- Settles O44: the fields of `State.reset`, an empty buffer read cell by cell, and the STATUS word they compute. -/
theorem resetState : Obligations.ResetState :=
  ⟨rfl, rfl, rfl, rfl, rfl, rfl, rfl, rfl, Memory.read_nil, Memory.read_nil, rfl, rfl, rfl⟩

/-! Reads -/

theorem takeInput_read (offset : BitVec 9) (width : Nat) (s : State) :
    takeInput (.host (.read offset width)) s = .next (hostRead offset width s) := rfl

/-- Settles O38: each register's own offset and width answers it (20_memory.md R51). -/
theorem registerReads : Obligations.RegisterReads := by
  intro s rest hok hr
  refine ⟨fun hi => ?_, fun hi => ?_⟩ <;> rw [step_takeInput hok hr hi, takeInput_read]
  · rfl
  · rfl

/-- A READY host read of an empty cell: a free byte, and M1 (log 5). -/
theorem readPbuf_of_empty {i : Nat} (hp : s.phase = .ready) (hempty : Memory.read s.pbuf i = none) :
    s.readPbuf i = ((s.respond ((Config.freeByte s.draws).setWidth 32)).recordM1 true).draw 1 := by
  simp [State.readPbuf, s.busy_false_iff.2 hp, hempty]

theorem hostRead_pbuf {offset : BitVec 9} (hlo : 0x100 ≤ offset.toNat)
    (hhi : offset.toNat < 0x100 + s.params.pbufCap) :
    hostRead offset 8 s = s.readPbuf (offset.toNat - 0x100) := by
  have ht : target s.params.pbufCap offset = .pbuf (offset.toNat - 0x100) := target_eq_pbuf.2 ⟨by omega, by omega⟩
  simp [hostRead, ht]

/-- Settles O43: the free byte of the read is the one it draws. -/
theorem unwrittenCellReadRecordsM1 : Obligations.UnwrittenCellReadRecordsM1 := by
  intro s rest offset hok hr hp hlo hhi hempty hi
  refine ⟨Config.freeByte s.draws, ?_⟩
  rw [step_takeInput hok hr hi, takeInput_read, hostRead_pbuf (s := s.withInputs rest) hlo hhi,
    readPbuf_of_empty (s := s.withInputs rest) hp hempty]
  simp [State.draw, State.recordM1, State.respond, State.withInputs]

/-! A write to CMD -/

theorem takeInput_submitWord (w : Word) (s : State) : takeInput (submitWord w) s = acceptWord w s := rfl

theorem lenFits_iff {lenW : Nat} {i : Instr} :
    i.lenFits lenW = true ↔ ∀ n, i = .requestWrite n ∨ i = .answerRead n → n < 2 ^ lenW := by
  cases i <;> simp [Instr.lenFits]

theorem acceptWord_of_fits {w : Word} {i : Instr} (hd : decode w = .ok i) (hl : i.lenFits s.params.lenW = true) :
    acceptWord w s = exec i s := by
  rw [acceptWord, decodeFor_eq_ok.2 ⟨hd, hl⟩]

theorem acceptWord_of_long {w : Word} {i : Instr} (hd : decode w = .ok i) (hl : i.lenFits s.params.lenW = false) :
    acceptWord w s = .next (s.raiseFault .reservedBits) := by
  rw [acceptWord, decodeFor_of_long hd hl]
  rfl

/-- Settles O5: the acceptance step is `exec` of the decoded command when its length fits LEN_W, which a decoded length
always does at 16 (log 9). -/
theorem stepRunsTheDecodedCommand : Obligations.StepRunsTheDecodedCommand := by
  intro s w rest i hok hr hi hd
  rw [step_takeInput hok hr hi]
  refine ⟨fun hfits => ?_, fun n hn hlong => ?_⟩
  · have hl : i.lenFits s.params.lenW = true := by
      rcases hfits with h16 | hfits
      · rw [h16]; exact lenFits_of_decode hd
      · exact lenFits_iff.2 hfits
    exact acceptWord_of_fits (s := s.withInputs rest) hd hl
  · have hl : i.lenFits s.params.lenW = false := by
      rw [← Bool.not_eq_true, lenFits_iff]
      exact fun hfits => absurd (hfits n hn) (by omega)
    exact acceptWord_of_long (s := s.withInputs rest) hd hl

end Sys2Proof.Machine
end

section
/-! PROOFS. What the transfer commands and the transport's answers never touch: the parameters, CFG and the fault
record. -/

namespace Sys2Proof.Machine

variable {s t : State}

/-- The parameters, CFG and the fault record of a state (10_state.md R26-R30). -/
structure Setup where
  params : Config.Params
  initDone : Bool
  mode : Mode
  idleEn : Bool
  fault : Bool
  faultCode : FaultCode

def State.setup (s : State) : Setup := ⟨s.params, s.initDone, s.mode, s.idleEn, s.fault, s.faultCode⟩

theorem setup_eq_iff : t.setup = s.setup ↔
    t.params = s.params ∧ t.initDone = s.initDone ∧ t.mode = s.mode ∧ t.idleEn = s.idleEn ∧ t.fault = s.fault ∧
      t.faultCode = s.faultCode := by
  simp [State.setup]

/-! The operations that keep the setup -/

@[simp] theorem State.withInputs_setup (is : List Input) (s : State) : (s.withInputs is).setup = s.setup := rfl

@[simp] theorem State.markRefused_setup (s : State) : s.markRefused.setup = s.setup := rfl

@[simp] theorem State.writePbuf_setup (i : Nat) (b : Byte) (s : State) : (s.writePbuf i b).setup = s.setup := rfl

@[simp] theorem State.respond_setup (d : Word) (s : State) : (s.respond d).setup = s.setup := rfl

@[simp] theorem State.recordM1_setup (due : Bool) (s : State) : (s.recordM1 due).setup = s.setup := rfl

@[simp] theorem State.draw_setup (j : Nat) (s : State) : (s.draw j).setup = s.setup := rfl

@[simp] theorem State.finish_setup (res : ProtocolResult) (s : State) : (s.finish res).setup = s.setup := rfl

@[simp] theorem State.sendFrame_setup (n : Nat) (s : State) : (s.sendFrame n).setup = s.setup := by
  simp [setup_eq_iff, State.sendFrame]

@[simp] theorem State.awaitFrame_setup (n : Nat) (s : State) : (s.awaitFrame n).setup = s.setup := rfl

@[simp] theorem State.writeAnswered_setup (r : CallbackResult) (s : State) : (s.writeAnswered r).setup = s.setup := by
  rcases writeAnswered_cases r s with ⟨-, -, h⟩ | ⟨-, h⟩ <;> rw [h] <;> rfl

@[simp] theorem State.idleAnswered_setup (s : State) : s.idleAnswered.setup = s.setup := rfl

@[simp] theorem State.readFailed_setup (r : CallbackResult) (s : State) : (s.readFailed r).setup = s.setup := rfl

@[simp] theorem State.afterDecode_setup (f : List Byte) (n : Nat) (s : State) :
    (s.afterDecode f n).setup = s.setup := by
  simp [setup_eq_iff]

@[simp] theorem State.conclude_setup (n : Nat) (v : Verdict) (s : State) : (s.conclude n v).setup = s.setup := by
  rcases conclude_cases n v s with ⟨q, -, h⟩ | ⟨-, h⟩ <;> rw [h] <;> rfl

@[simp] theorem State.frameReceived_setup (bs : List Byte) (s : State) : (s.frameReceived bs).setup = s.setup := by
  simp only [State.frameReceived, conclude_setup, afterDecode_setup]
  rfl

/-- Of the inputs but a reset, only a recorded fault and an accepted INIT touch the setup (10_state.md R33,
60_exceptions.md R215). -/
theorem takeInput_setup {e : Input} (he : e ≠ .reset) (h : takeInput e s = .next t) :
    t.setup = s.setup ∨ (∃ k, k ≠ .none ∧ t.setup = (s.raiseFault k).setup) ∨
    ∃ w m b, e = submitWord w ∧ decodeFor s.params w = .ok (.init m b) ∧ s.phase = .ready ∧ s.initDone = false ∧
      t.setup = (s.configure m b).setup := by
  rcases takeInput_cases h with ⟨-, k, j, hk, rfl | rfl⟩ | ⟨o, w, d, j, due, -, -, rfl⟩ | ⟨o, d, i, -, -, -, -, rfl⟩ |
    ⟨w, i, hw, hd, hp, hcommand⟩ | ⟨a, c, -, -, hanswer⟩ | ⟨hreset, -⟩
  · exact .inr (.inl ⟨k, hk, rfl⟩)
  · exact .inr (.inl ⟨k, hk, rfl⟩)
  · exact .inl rfl
  · exact .inl rfl
  · rcases hcommand with ⟨m, b, rfl, hn, -, rfl⟩ | ⟨n, -, -, -, rfl⟩ | ⟨n, -, -, -, rfl⟩ | ⟨n, -, -, -, rfl⟩
    · exact .inr (.inr ⟨w, m, b, hw, hd, hp, hn, rfl⟩)
    · exact .inl (State.finish_setup ..)
    · exact .inl (State.sendFrame_setup ..)
    · exact .inl (State.awaitFrame_setup ..)
  · rcases hanswer with ⟨cb, r, -, -, -, rfl⟩ | ⟨-, -, rfl⟩ | ⟨bs, n, ms, -, -, -, rfl⟩ | ⟨cb, bs, r, -, -, -, -, rfl⟩
    · exact .inl (State.writeAnswered_setup ..)
    · exact .inl (State.idleAnswered_setup _)
    · exact .inl (State.frameReceived_setup ..)
    · exact .inl (State.readFailed_setup ..)
  · exact absurd hreset he

/-- The same of a step that takes no reset: the setup stays, a fault is recorded in it, or an INIT was accepted. -/
theorem step_setup (h : step s = .next t) (he : s.inputs.head? ≠ some .reset) :
    t.setup = s.setup ∨ (∃ k, k ≠ .none ∧ t.setup = (s.raiseFault k).setup) ∨
    ∃ w m b, s.inputs.head? = some (submitWord w) ∧ decode w = .ok (.init m b) ∧ s.phase = .ready ∧
      s.initDone = false ∧ t.setup = (s.configure m b).setup := by
  rcases step_next h with ⟨-, -, rfl⟩ | ⟨-, -, rfl⟩ | ⟨e, rest, -, -, hi, htake⟩
  · exact .inl rfl
  · exact .inl rfl
  · rw [hi] at he ⊢
    rcases takeInput_setup (fun hr => he (hr ▸ rfl)) htake with hs | ⟨k, hk, hs⟩ | ⟨w, m, b, rfl, hd, hp, hn, hs⟩
    · exact .inl hs
    · exact .inr (.inl ⟨k, hk, hs⟩)
    · exact .inr (.inr ⟨w, m, b, rfl, (decodeFor_eq_ok.1 hd).1, hp, hn, hs⟩)

/-- A step that takes no reset leaves CFG alone, unless it accepts an INIT with INIT_DONE = 0 (10_state.md R33). -/
theorem step_cfg (h : step s = .next t) (he : s.inputs.head? ≠ some .reset) :
    (t.initDone = s.initDone ∧ t.mode = s.mode ∧ t.idleEn = s.idleEn) ∨
    ∃ w m b, s.inputs.head? = some (submitWord w) ∧ decode w = .ok (.init m b) ∧ s.phase = .ready ∧
      s.initDone = false ∧ t.initDone = true ∧ t.mode = m ∧ t.idleEn = b := by
  rcases step_setup h he with hs | ⟨k, -, hs⟩ | ⟨w, m, b, hw, hd, hp, hn, hs⟩ <;>
    obtain ⟨-, hi, hm, hid, -, -⟩ := setup_eq_iff.1 hs
  · exact .inl ⟨hi, hm, hid⟩
  · exact .inl ⟨hi, hm, hid⟩
  · exact .inr ⟨w, m, b, hw, hd, hp, hn, hi, hm, hid⟩

/-- Settles O50: of the three ways a step can treat the setup, only an accepted INIT changes CFG, and it is accepted
only with INIT_DONE = 0. -/
theorem configurationIsSetOnce : Obligations.ConfigurationIsSetOnce := by
  intro s t h he
  rcases step_cfg h he with ⟨hi, hm, hid⟩ | ⟨w, m, b, hw, hd, hp, hn, hi, hm, hid⟩
  · exact ⟨fun hdone => ⟨hi.trans hdone, hm, hid⟩, fun hne => absurd ⟨hi, hm, hid⟩ hne⟩
  · refine ⟨fun hdone => ?_, fun _ => ⟨hp, hn, w, m, b, hw, hd, hi, hm, hid⟩⟩
    rw [hn] at hdone
    cases hdone

/-- Settles O53: no step but a reset does more to the fault record than `raiseFault`, which keeps the first code. -/
theorem firstFaultIsSticky : Obligations.FirstFaultIsSticky := by
  intro s t h he hf
  rcases step_setup h he with hs | ⟨k, -, hs⟩ | ⟨w, m, b, -, -, -, -, hs⟩ <;>
    obtain ⟨-, -, -, -, hfault, hcode⟩ := setup_eq_iff.1 hs
  · exact ⟨hfault.trans hf, hcode⟩
  · exact ⟨hfault, hcode.trans (if_pos hf)⟩
  · exact ⟨hfault.trans hf, hcode⟩

end Sys2Proof.Machine
end

section
/-! PROOFS. The invariant: it holds at reset, every operation and so every step keeps it, and PHASE tells which call
is outstanding. -/

namespace Sys2Proof.Machine

variable {s t : State}

/-! How a state of the invariant is made -/

/-- With the setup of `s` and nothing in flight, only PBUF is left to check. -/
theorem State.Inv.of_ready (h : s.Inv) (hs : t.setup = s.setup) (hwf : Memory.wf t.pbuf)
    (hbound : Memory.Below t.pbuf s.params.pbufCap) (hp : t.phase = .ready) (hc : t.tcall = none) (hwb : t.wb = []) :
    t.Inv := by
  obtain ⟨hparams, hi, hm, hid, hf, hk⟩ := setup_eq_iff.1 hs
  exact {
    paramsOk := hparams ▸ h.paramsOk
    pbufWf := hwf
    pbufBound := hparams ▸ hbound
    wbWf := hwb ▸ Memory.wf_nil
    wbBound := by simp [hwb]
    faultCoded := by rw [hf, hk]; exact h.faultCoded
    uninitialised := fun hn => by
      obtain ⟨hascii, hidle, -⟩ := h.uninitialised (hi ▸ hn)
      exact ⟨hm.trans hascii, hid.trans hidle, hp⟩
    rtuHasIdle := fun hr => hid.trans (h.rtuHasIdle (hm ▸ hr))
    phaseOk := by rw [State.PhaseOk, hp]; exact ⟨hc, hwb⟩ }

/-- With the setup and PBUF of `s` and a command in flight after INIT, only WB and what PHASE says are left to check. -/
theorem State.Inv.of_busy (h : s.Inv) (hs : t.setup = s.setup) (hpbuf : t.pbuf = s.pbuf) (hdone : s.initDone = true)
    (hwf : Memory.wf t.wb) (hbound : Memory.Below t.wb s.params.wbCap) (hp : t.PhaseOk) : t.Inv := by
  obtain ⟨hparams, hi, hm, hid, hf, hk⟩ := setup_eq_iff.1 hs
  exact {
    paramsOk := hparams ▸ h.paramsOk
    pbufWf := hpbuf ▸ h.pbufWf
    pbufBound := by rw [hpbuf, hparams]; exact h.pbufBound
    wbWf := hwf
    wbBound := hparams ▸ hbound
    faultCoded := by rw [hf, hk]; exact h.faultCoded
    uninitialised := fun hn => by rw [hi, hdone] at hn; cases hn
    rtuHasIdle := fun hr => hid.trans (h.rtuHasIdle (hm ▸ hr))
    phaseOk := hp }

/-- A block that has just been reset, with parameters that satisfy 00_scope.md R9. -/
theorem State.resetBlock_inv (h : s.params.Ok) : s.resetBlock.Inv where
  paramsOk := h
  pbufWf := Memory.wf_nil
  pbufBound := nofun
  wbWf := Memory.wf_nil
  wbBound := nofun
  faultCoded := ⟨fun _ => rfl, fun _ => rfl⟩
  uninitialised := fun _ => ⟨rfl, rfl, rfl⟩
  rtuHasIdle := nofun
  phaseOk := ⟨rfl, rfl⟩

/-- Settles O47: reset is a reset block with the default parameters. -/
theorem resetMeetsInvariant : Obligations.ResetMeetsInvariant :=
  State.resetBlock_inv (s := State.reset) defaults_ok

/-! What PHASE says of the outstanding call -/

/-- The phase in which a call is outstanding (10_state.md R37, R39). -/
def TransportCall.phase : TransportCall → Phase
  | .write _ _ _ => .waitWrite
  | .read _ _ => .waitRead
  | .idle _ => .waitIdle

theorem TransportCall.phase_ne_ready (c : TransportCall) : c.phase ≠ .ready := by
  cases c <;> nofun

theorem State.Inv.ready (h : s.Inv) (hp : s.phase = .ready) : s.tcall = none ∧ s.wb = [] := by
  have hok := h.phaseOk
  rwa [State.PhaseOk, hp] at hok

theorem State.Inv.waitWrite (h : s.Inv) (hp : s.phase = .waitWrite) : s.LatchOk ∧ s.curOp = 1#2 := by
  have hok := h.phaseOk
  rw [State.PhaseOk, hp] at hok
  obtain ⟨hlatch, hop, -⟩ := hok
  exact ⟨hlatch, hop⟩

theorem State.Inv.waitRead (h : s.Inv) (hp : s.phase = .waitRead) :
    s.LatchOk ∧ s.tcall = some (.read s.curFlen.toNat s.params.busTimeoutMs) := by
  have hok := h.phaseOk
  rw [State.PhaseOk, hp] at hok
  obtain ⟨hlatch, -, -, hcall⟩ := hok
  exact ⟨hlatch, hcall⟩

/-- A call is outstanding in its own phase only. -/
theorem State.Inv.phase_of_tcall (h : s.Inv) {c : TransportCall} (hc : s.tcall = some c) : s.phase = c.phase := by
  have hok := h.phaseOk
  unfold State.PhaseOk at hok
  cases hp : s.phase <;> rw [hp, hc] at hok
  case ready => obtain ⟨hnone, -⟩ := hok; cases hnone
  case waitWrite => obtain ⟨-, -, hcall, -⟩ := hok; cases hcall; rfl
  case waitIdle => obtain ⟨-, -, -, hcall⟩ := hok; cases hcall; rfl
  case waitRead => obtain ⟨-, -, -, hcall⟩ := hok; cases hcall; rfl

/-- With no call outstanding nothing is in flight. -/
theorem State.Inv.phase_of_no_tcall (h : s.Inv) (hc : s.tcall = none) : s.phase = .ready := by
  have hok := h.phaseOk
  unfold State.PhaseOk at hok
  cases hp : s.phase <;> rw [hp, hc] at hok
  case waitWrite => obtain ⟨-, -, hcall, -⟩ := hok; cases hcall
  case waitIdle => obtain ⟨-, -, -, hcall⟩ := hok; cases hcall
  case waitRead => obtain ⟨-, -, -, hcall⟩ := hok; cases hcall

/-- A call is outstanding exactly while BUSY (10_state.md R25, R39). -/
theorem State.Inv.tcall_ne_none_iff (h : s.Inv) : s.tcall ≠ none ↔ s.phase ≠ .ready := by
  refine ⟨fun hc => ?_, fun hp hc => hp (h.phase_of_no_tcall hc)⟩
  obtain ⟨c, hc⟩ := Option.ne_none_iff_exists'.1 hc
  exact h.phase_of_tcall hc ▸ c.phase_ne_ready

theorem State.Inv.initDone_of_busy (h : s.Inv) (hp : s.phase ≠ .ready) : s.initDone = true := by
  cases hi : s.initDone with
  | true => rfl
  | false => exact absurd (h.uninitialised hi).2.2 hp

/-! Inputs, faults, host accesses and INIT -/

theorem State.Inv.withInputs (h : s.Inv) (is : List Input) : (s.withInputs is).Inv := { h with }

theorem State.Inv.markRefused (h : s.Inv) : s.markRefused.Inv := { h with }

theorem State.Inv.respond (h : s.Inv) (d : Word) : (s.respond d).Inv := { h with }

theorem State.Inv.recordM1 (h : s.Inv) (due : Bool) : (s.recordM1 due).Inv := { h with }

theorem State.Inv.draw (h : s.Inv) (j : Nat) : (s.draw j).Inv := { h with }

theorem State.Inv.raiseFault (h : s.Inv) {k : FaultCode} (hk : k ≠ .none) : (s.raiseFault k).Inv :=
  { h with
    faultCoded := by
      have hcode := h.faultCoded
      cases hf : s.fault <;> simp_all }

theorem State.Inv.writePbuf (h : s.Inv) {i : Nat} (hi : i < s.params.pbufCap) (b : Byte) : (s.writePbuf i b).Inv :=
  { h with
    pbufWf := Memory.wf_write h.pbufWf i b
    pbufBound := Memory.below_write h.pbufBound hi b }

theorem State.Inv.configure (h : s.Inv) (hp : s.phase = .ready) {m : Mode} {b : Bool} (hm : m = .rtu → b = true) :
    (s.configure m b).Inv :=
  { h with
    uninitialised := nofun
    rtuHasIdle := hm
    phaseOk := by rw [State.PhaseOk, State.configure_phase, hp]; exact h.ready hp }

theorem State.Inv.finish (h : s.Inv) (hp : s.phase = .ready) (res : ProtocolResult) : (s.finish res).Inv :=
  h.of_ready rfl h.pbufWf h.pbufBound rfl (h.ready hp).1 (h.ready hp).2

/-! Issuing a call -/

/-- A frame length that fits WB is latched as it is. -/
theorem latchOk_of_fits {n : Nat} (hok : t.params.Ok) (hfit : flen t.mode n ≤ t.params.wbCap)
    (hn : t.curN = BitVec.ofNat 16 n) (hl : t.curFlen = BitVec.ofNat 18 (flen t.mode n)) : t.LatchOk := by
  obtain ⟨en, el⟩ := latch_exact hfit (wbCap_le hok)
  rw [State.LatchOk, hn, hl, en, el]
  exact ⟨rfl, hfit⟩

theorem State.sendFrame_latchOk {n : Nat} (hok : s.params.Ok) (hfit : flen s.mode n ≤ s.params.wbCap) :
    (s.sendFrame n).LatchOk :=
  latchOk_of_fits (n := n) (by simpa [State.sendFrame] using hok) (by simpa [State.sendFrame] using hfit)
    (by simp [State.sendFrame]) (by simp [State.sendFrame])

/-- The frame staged in WB is the one the outstanding write sends. -/
theorem State.sendFrame_phaseOk {n : Nat} (hok : s.params.Ok) (hfit : flen s.mode n ≤ s.params.wbCap) :
    (s.sendFrame n).PhaseOk := by
  have hlatch := State.sendFrame_latchOk hok hfit
  have hlen : (s.sendFrame n).curFlen.toNat = flen s.mode n := by
    simpa [State.sendFrame] using (latch_exact hfit (wbCap_le hok)).2
  have hstaged : Memory.bytes (s.sendFrame n).wb 0 (flen s.mode n) = encodeFrame s.mode (s.payload n) := by
    simpa [sendFrame_wb] using staged_frame s.wb s.mode (s.payload n)
  show (s.sendFrame n).LatchOk ∧ (s.sendFrame n).curOp = 1#2 ∧ _ ∧ _
  rw [hlen, hstaged, sendFrame_tcall]
  exact ⟨hlatch, by simp [State.sendFrame], by simp [State.sendFrame], by simp⟩

theorem State.Inv.sendFrame (h : s.Inv) {n : Nat} (hdone : s.initDone = true) (hfit : flen s.mode n ≤ s.params.wbCap) :
    (s.sendFrame n).Inv := by
  refine h.of_busy (State.sendFrame_setup n s) (by simp [State.sendFrame]) hdone ?_ ?_
    (State.sendFrame_phaseOk h.paramsOk hfit) <;> rw [sendFrame_wb]
  · exact Memory.wf_store h.wbWf 0 _
  · exact Memory.below_store h.wbBound (by simpa using hfit)

theorem State.Inv.awaitFrame (h : s.Inv) {n : Nat} (hp : s.phase = .ready) (hdone : s.initDone = true)
    (hfit : flen s.mode n ≤ s.params.wbCap) : (s.awaitFrame n).Inv := by
  have hlatch : (s.awaitFrame n).LatchOk := latchOk_of_fits (n := n) h.paramsOk hfit rfl rfl
  have hlen : (s.awaitFrame n).curFlen.toNat = flen s.mode n := (latch_exact hfit (wbCap_le h.paramsOk)).2
  refine h.of_busy (State.awaitFrame_setup n s) rfl hdone h.wbWf h.wbBound ?_
  show (s.awaitFrame n).LatchOk ∧ (s.awaitFrame n).curOp = 2#2 ∧ s.wb = [] ∧ _
  rw [hlen]
  exact ⟨hlatch, rfl, (h.ready hp).2, rfl⟩

/-! Answering a call -/

/-- The end of a command that leaves PBUF alone. -/
theorem State.Inv.endCall (h : s.Inv) (res : ProtocolResult) : (s.closeCall.endCall res).Inv :=
  h.of_ready rfl h.pbufWf h.pbufBound rfl rfl rfl

theorem State.Inv.writeAnswered (h : s.Inv) (hp : s.phase = .waitWrite) (r : CallbackResult) :
    (s.writeAnswered r).Inv := by
  rcases writeAnswered_cases r s with ⟨hrtu, -, he⟩ | ⟨-, he⟩ <;> rw [he]
  · obtain ⟨hlatch, hop⟩ := h.waitWrite hp
    have hdone := h.initDone_of_busy (by rw [hp]; decide)
    exact h.of_busy rfl rfl hdone h.wbWf h.wbBound ⟨hlatch, hop, hrtu, rfl⟩
  · exact h.endCall _

/-- A payload of CUR_N bytes fits PBUF: its frame fits WB, and PBUF_CAP is at least WB_CAP - 2 (00_scope.md R9). -/
theorem State.LatchOk.curN_le (h : s.LatchOk) (hok : s.params.Ok) : s.curN.toNat ≤ s.params.pbufCap := by
  obtain ⟨hlen, hfit⟩ := h
  have hframe := flen_ge s.mode s.curN.toNat
  have hcap := hok.1
  omega

theorem State.Inv.frameReceived (h : s.Inv) (hp : s.phase = .waitRead) {bs : List Byte}
    (hl : bs.length = s.curFlen.toNat) : (s.frameReceived bs).Inv := by
  obtain ⟨hlatch, -⟩ := h.waitRead hp
  have hs := State.frameReceived_setup bs s
  rw [frameReceived_eq hl] at hs ⊢
  rcases conclude_cases s.curN.toNat (decodeFrame s.params.hexSentinel s.mode bs s.curN.toNat)
    ((s.closeCall.stageFrame bs).afterDecode bs s.curN.toNat) with ⟨q, hq, he⟩ | ⟨-, he⟩ <;> rw [he] at hs ⊢
  · have hlen : q.length = s.curN.toNat := decodeFrame_ok_length (hl.trans hlatch.1) hq
    have hfit : 0 + q.length ≤ s.params.pbufCap := by
      rw [Nat.zero_add, hlen]
      exact hlatch.curN_le h.paramsOk
    exact h.of_ready hs (by simpa using Memory.wf_store h.pbufWf 0 q)
      (by simpa using Memory.below_store h.pbufBound hfit) rfl (by simp) rfl
  · exact h.of_ready hs (by simpa using Memory.wf_eraseRange h.pbufWf 0 _)
      (by simpa using Memory.below_eraseRange h.pbufBound 0 s.curN.toNat) rfl (by simp) rfl

/-! The step -/

theorem State.Inv.takeInput (h : s.Inv) {e : Input} (he : takeInput e s = .next t) : t.Inv := by
  rcases takeInput_cases he with ⟨-, k, j, hk, rfl | rfl⟩ | ⟨o, w, d, j, due, -, -, rfl⟩ | ⟨o, d, i, -, -, hi, -, rfl⟩ |
    ⟨w, i, -, -, hp, hcommand⟩ | ⟨a, c, -, hc, hanswer⟩ | ⟨-, ⟨-, rfl⟩ | ⟨-, rfl⟩⟩
  · exact (h.raiseFault hk).draw j
  · exact (h.raiseFault hk).respond _
  · exact ((h.respond d).recordM1 due).draw j
  · exact h.writePbuf hi _
  · rcases hcommand with ⟨m, b, -, -, hm, rfl⟩ | ⟨n, -, -, -, rfl⟩ | ⟨n, -, hdone, hfit, rfl⟩ | ⟨n, -, hdone, hfit, rfl⟩
    · exact h.configure hp hm
    · exact h.finish hp _
    · exact h.sendFrame hdone hfit
    · exact h.awaitFrame hp hdone hfit
  · have hp := h.phase_of_tcall hc
    rcases hanswer with ⟨cb, r, -, ⟨bs, n, ms, rfl⟩, -, rfl⟩ | ⟨-, -, rfl⟩ | ⟨bs, n, ms, -, rfl, hl, rfl⟩ |
      ⟨cb, bs, r, -, -, -, -, rfl⟩
    · exact h.writeAnswered hp r
    · exact h.endCall _
    · have hread := hc.symm.trans (h.waitRead hp).2
      injection hread with hread
      injection hread with hn
      exact h.frameReceived hp (hl.trans hn)
    · exact h.endCall _
  · exact State.resetBlock_inv h.paramsOk
  · exact h.markRefused

/-- Settles O48: a step waits, or takes an input, and each thing an input can do keeps the invariant; a state of the
invariant has no bad parameters to refuse. -/
theorem stepKeepsInvariant : Obligations.StepKeepsInvariant := by
  intro s t h hstep
  rcases step_next hstep with ⟨hbad, -, -⟩ | ⟨-, -, rfl⟩ | ⟨e, rest, -, -, -, htake⟩
  · exact absurd h.paramsOk hbad
  · exact h
  · exact (h.withInputs rest).takeInput htake

end Sys2Proof.Machine
end

section
/-! PROOFS. What a step does to the command in flight: PHASE, TCALL and RESULT. -/

namespace Sys2Proof.Machine

variable {s t : State}

/-- Settles O49: by the invariant a call is outstanding exactly when PHASE is not READY, which is bit 3. -/
theorem callOutstandingExactlyWhenBusy : Obligations.CallOutstandingExactlyWhenBusy := by
  intro s h
  rw [statusWord_busy, s.busy_iff]
  exact h.tcall_ne_none_iff

/-! The ends of a command -/

theorem mapCb_ne_noBufferSpace (r : CallbackResult) : mapCb r ≠ .noBufferSpace := by cases r <;> decide

theorem mapCb_ne_corrupted (r : CallbackResult) : mapCb r ≠ .corrupted := by cases r <;> decide

@[simp] theorem State.sendFrame_phase (n : Nat) (s : State) : (s.sendFrame n).phase = .waitWrite := rfl

@[simp] theorem State.sendFrame_result (n : Nat) (s : State) : (s.sendFrame n).result = s.result := by
  simp [State.sendFrame]

theorem conclude_ends (n : Nat) (v : Verdict) (s : State) :
    (s.conclude n v).phase = .ready ∧ (s.conclude n v).tcall = s.tcall ∧ (s.conclude n v).result ≠ .noBufferSpace := by
  rcases conclude_cases n v s with ⟨q, -, h⟩ | ⟨-, h⟩ <;> simp [h]

theorem frameReceived_ends (bs : List Byte) (s : State) :
    (s.frameReceived bs).phase = .ready ∧ (s.frameReceived bs).tcall = none ∧
      (s.frameReceived bs).result ≠ .noBufferSpace := by
  obtain ⟨hp, hc, hr⟩ := conclude_ends s.curN.toNat _ (State.afterDecode _ s.curN.toNat (s.closeCall.stageFrame bs))
  exact ⟨hp, hc.trans (by simp), hr⟩

/-- What a step from `s` to `t` with the next input `o` does to the command in flight (10_state.md R37,
41_commands.md R132). -/
inductive CommandStep (s t : State) : Option Input → Prop where
  | stays {o : Option Input} (phase : t.phase = s.phase) (result : t.result = s.result) : CommandStep s t o
  | resets (phase : t.phase = s.phase) : CommandStep s t (some .reset)
  | noSpace {w : Word} {n : Nat} (decodes : decode w = .ok (.requestWrite n) ∨ decode w = .ok (.answerRead n))
      (ready : s.phase = .ready) (phase : t.phase = .ready) (tcall : t.tcall = none)
      (result : t.result = .noBufferSpace) : CommandStep s t (some (submitWord w))
  | sends {w : Word} {n : Nat} (decodes : decode w = .ok (.requestWrite n)) (ready : s.phase = .ready)
      (done : s.initDone = true) (fits : flen s.mode n ≤ s.params.wbCap) (phase : t.phase = .waitWrite)
      (result : t.result = s.result) : CommandStep s t (some (submitWord w))
  | reads {w : Word} {n : Nat} (decodes : decode w = .ok (.answerRead n)) (ready : s.phase = .ready)
      (done : s.initDone = true) (fits : flen s.mode n ≤ s.params.wbCap) (phase : t.phase = .waitRead)
      (result : t.result = s.result) : CommandStep s t (some (submitWord w))
  | idles (writing : s.phase = .waitWrite) (mode : s.mode = .rtu) (phase : t.phase = .waitIdle)
      (result : t.result = s.result) : CommandStep s t (some (.transport (.write 0)))
  | endsWrite {cb : Nat} (writing : s.phase = .waitWrite) (code : cb < 3) (last : s.mode = .ascii ∨ cb ≠ 0)
      (phase : t.phase = .ready) (tcall : t.tcall = none) (space : t.result ≠ .noBufferSpace)
      (intact : t.result ≠ .corrupted) : CommandStep s t (some (.transport (.write cb)))
  | endsIdle (idling : s.phase = .waitIdle) (phase : t.phase = .ready) (tcall : t.tcall = none)
      (result : t.result = .success) : CommandStep s t (some (.transport .idle))
  | endsRead {cb : Nat} {bs : List Byte} (reading : s.phase = .waitRead) (phase : t.phase = .ready)
      (tcall : t.tcall = none) (space : t.result ≠ .noBufferSpace) : CommandStep s t (some (.transport (.read cb bs)))

theorem writeAnswered_commandStep {is : List Input} {cb : Nat} {r : CallbackResult} (hp : s.phase = .waitWrite)
    (hcb : CallbackResult.ofCode cb = some r) :
    CommandStep s ((s.withInputs is).writeAnswered r) (some (.transport (.write cb))) := by
  rcases writeAnswered_cases r (s.withInputs is) with ⟨hmode, rfl, h⟩ | ⟨hlast, h⟩ <;> rw [h]
  · obtain rfl := ofCode_eq_success.1 hcb
    exact .idles hp hmode rfl rfl
  · have hlast : s.mode = .ascii ∨ cb ≠ 0 := hlast.imp_right fun hr hz => by
      rw [hz, ofCode_eq_success.2 rfl] at hcb
      exact hr (Option.some.inj hcb).symm
    exact .endsWrite hp (ofCode_lt hcb) hlast rfl rfl (mapCb_ne_noBufferSpace r) (mapCb_ne_corrupted r)

/-- Taking an input; the inputs still to come do not matter to it. -/
theorem takeInput_commandStep (h : s.Inv) {e : Input} {is : List Input} (he : takeInput e (s.withInputs is) = .next t) :
    CommandStep s t (some e) := by
  rcases takeInput_cases he with ⟨-, k, j, -, rfl | rfl⟩ | ⟨o, w, d, j, due, -, -, rfl⟩ | ⟨o, d, i, -, -, -, -, rfl⟩ |
    ⟨w, i, rfl, hd, hp, hcommand⟩ | ⟨a, c, rfl, hc, hanswer⟩ | ⟨rfl, ⟨hp, rfl⟩ | ⟨-, rfl⟩⟩
  · exact .stays rfl rfl
  · exact .stays rfl rfl
  · exact .stays rfl rfl
  · exact .stays rfl rfl
  · obtain ⟨hd, -⟩ := decodeFor_eq_ok.1 hd
    rcases hcommand with ⟨m, b, -, -, -, rfl⟩ | ⟨n, hi, -, -, rfl⟩ | ⟨n, rfl, hdone, hfit, rfl⟩ |
      ⟨n, rfl, hdone, hfit, rfl⟩
    · exact .stays rfl rfl
    · have hdecodes : decode w = .ok (.requestWrite n) ∨ decode w = .ok (.answerRead n) := by
        rcases hi with rfl | rfl
        · exact .inl hd
        · exact .inr hd
      exact .noSpace hdecodes hp rfl (h.ready hp).1 rfl
    · exact .sends hd hp hdone hfit rfl (State.sendFrame_result ..)
    · exact .reads hd hp hdone hfit rfl rfl
  · have hp := h.phase_of_tcall hc
    rcases hanswer with ⟨cb, r, rfl, ⟨bs, n, ms, rfl⟩, hcb, rfl⟩ | ⟨rfl, ⟨n, rfl⟩, rfl⟩ | ⟨bs, n, ms, rfl, rfl, -, rfl⟩ |
      ⟨cb, bs, r, rfl, ⟨n, ms, rfl⟩, -, -, rfl⟩
    · exact writeAnswered_commandStep hp hcb
    · exact .endsIdle hp rfl rfl rfl
    · obtain ⟨hphase, htcall, hspace⟩ := frameReceived_ends bs (s.withInputs is)
      exact .endsRead hp hphase htcall hspace
    · exact .endsRead hp rfl rfl (mapCb_ne_noBufferSpace r)
  · exact .resets hp.symm
  · exact .resets rfl

theorem step_commandStep (h : s.Inv) (hstep : step s = .next t) : CommandStep s t s.inputs.head? := by
  rcases step_next hstep with ⟨hbad, -, -⟩ | ⟨-, -, rfl⟩ | ⟨e, rest, -, -, hi, htake⟩
  · exact absurd h.paramsOk hbad
  · exact .stays rfl rfl
  · rw [hi]
    exact takeInput_commandStep h htake

/-- Settles O51: of what a step can do to the command in flight, the cases that change PHASE. -/
theorem phaseTransitions : Obligations.PhaseTransitions := by
  intro s t h hstep hne
  have hcommand := step_commandStep h hstep
  generalize s.inputs.head? = o at hcommand ⊢
  cases hcommand
  case stays phase _ => exact absurd phase.symm hne
  case resets phase => exact absurd phase.symm hne
  case noSpace _ ready phase _ _ => exact absurd (ready.trans phase.symm) hne
  case sends w n decodes ready done fits phase _ =>
    exact .inl ⟨w, n, rfl, ready, done, fits, .inl ⟨decodes, phase⟩⟩
  case reads w n decodes ready done fits phase _ =>
    exact .inl ⟨w, n, rfl, ready, done, fits, .inr ⟨decodes, phase⟩⟩
  case idles writing mode phase _ =>
    exact .inr (.inl ⟨0, rfl, writing, by decide, .inl ⟨mode, rfl, phase⟩⟩)
  case endsWrite cb writing code last phase _ _ _ =>
    exact .inr (.inl ⟨cb, rfl, writing, code, .inr ⟨last, phase⟩⟩)
  case endsIdle idling phase _ _ => exact .inr (.inr (.inl ⟨rfl, idling, phase⟩))
  case endsRead cb bs reading phase _ _ => exact .inr (.inr (.inr ⟨cb, bs, rfl, reading, phase⟩))

/-- Settles O54: of what a step can do to the command in flight, the cases that change RESULT; each ends a command. -/
theorem resultIsWrittenOnlyByFinish : Obligations.ResultIsWrittenOnlyByFinish := by
  intro s t h hstep hreset hne
  have hcommand := step_commandStep h hstep
  generalize s.inputs.head? = o at hcommand hreset ⊢
  cases hcommand
  case stays _ result => exact absurd result hne
  case resets => exact absurd rfl hreset
  case sends result => exact absurd result hne
  case reads result => exact absurd result hne
  case idles result => exact absurd result hne
  case noSpace w n decodes ready phase tcall result =>
    exact ⟨phase, tcall, fun _ => ⟨result, w, n, rfl, decodes⟩, fun hp => absurd ready hp,
      fun hc => absurd hc (by rw [result]; decide)⟩
  case endsWrite cb writing _ _ phase tcall space intact =>
    exact ⟨phase, tcall, fun hp => absurd hp (by rw [writing]; decide), fun _ => ⟨⟨.write cb, rfl⟩, space⟩,
      fun hc => absurd hc intact⟩
  case endsIdle idling phase tcall result =>
    exact ⟨phase, tcall, fun hp => absurd hp (by rw [idling]; decide), fun _ => ⟨⟨.idle, rfl⟩, by rw [result]; decide⟩,
      fun hc => absurd hc (by rw [result]; decide)⟩
  case endsRead cb bs reading phase tcall space =>
    exact ⟨phase, tcall, fun hp => absurd hp (by rw [reading]; decide), fun _ => ⟨⟨.read cb bs, rfl⟩, space⟩,
      fun _ => reading⟩

end Sys2Proof.Machine
end

section
/-! PROOFS. The host's accesses: what each answers by its target and by PHASE (20_memory.md R51-R55, R68), and that
none of them reaches a command in flight. -/

namespace Sys2Proof.Machine

variable {s t : State} {offset : BitVec 9} {width : Nat} {data : Word} {rest : List Input} {i : Nat}

/-! The target of an offset -/

theorem target_eq_cmd {cap : Nat} : target cap offset = .cmd ↔ offset.toNat < 0x004 := by
  unfold target
  split_ifs <;> simp <;> omega

theorem target_eq_status {cap : Nat} :
    target cap offset = .status ↔ 0x004 ≤ offset.toNat ∧ offset.toNat < 0x008 := by
  unfold target
  split_ifs <;> simp <;> omega

theorem target_pbuf {cap : Nat} (hlo : 0x100 ≤ offset.toNat) (hhi : offset.toNat < 0x100 + cap) :
    target cap offset = .pbuf (offset.toNat - 0x100) :=
  target_eq_pbuf.2 ⟨by omega, by omega⟩

/-! Writes, by target -/

theorem hostWrite_reserved (ht : target s.params.pbufCap offset = .reserved) :
    hostWrite offset width data s = .next (s.raiseFault .reservedAddress) := by
  rw [hostWrite, ht]

theorem hostWrite_status (ht : target s.params.pbufCap offset = .status) :
    hostWrite offset width data s = .next (s.raiseFault .badAccess) := by
  rw [hostWrite, ht]

theorem hostWrite_cmd_of_bad (ht : target s.params.pbufCap offset = .cmd) (hbad : ¬ (offset = 0x000#9 ∧ width = 32)) :
    hostWrite offset width data s = .next (s.raiseFault .badAccess) := by
  rw [hostWrite, ht]
  exact if_neg hbad

theorem hostWrite_pbuf_of_ready (ht : target s.params.pbufCap offset = .pbuf i) (hp : s.phase = .ready) :
    hostWrite offset 8 data s = .next (s.writePbuf i (data.setWidth 8)) := by
  simp [hostWrite, ht, s.busy_false_iff.2 hp]

theorem hostWrite_pbuf_of_busy (ht : target s.params.pbufCap offset = .pbuf i) (hp : s.phase ≠ .ready) :
    hostWrite offset 8 data s = .next (s.raiseFault .pbufWriteWhileBusy) := by
  simp [hostWrite, ht, s.busy_iff.2 hp]

theorem hostWrite_pbuf_of_bad (ht : target s.params.pbufCap offset = .pbuf i) (hbad : width ≠ 8) :
    hostWrite offset width data s = .next s.badPbufWrite := by
  rw [hostWrite, ht]
  exact if_neg hbad

theorem badPbufWrite_of_ready (hp : s.phase = .ready) : s.badPbufWrite = s.raiseFault .badAccess := by
  simp [State.badPbufWrite, s.busy_false_iff.2 hp]

/-- Fault 7 or fault 10, a free choice (log 12). -/
theorem badPbufWrite_of_busy (hp : s.phase ≠ .ready) :
    ∃ k, (k = .pbufWriteWhileBusy ∨ k = .badAccess) ∧ s.badPbufWrite = (s.raiseFault k).draw 1 := by
  refine ⟨_, ?_, if_pos (s.busy_iff.2 hp)⟩
  split
  · exact .inl rfl
  · exact .inr rfl

/-! Reads, by target -/

theorem hostRead_reserved (ht : target s.params.pbufCap offset = .reserved) :
    hostRead offset width s = s.faultRead .reservedAddress := by
  rw [hostRead, ht]

theorem hostRead_cmd_of_bad (ht : target s.params.pbufCap offset = .cmd) (hbad : ¬ (offset = 0x000#9 ∧ width = 32)) :
    hostRead offset width s = s.faultRead .badAccess := by
  rw [hostRead, ht]
  exact if_neg hbad

theorem hostRead_status_of_bad (ht : target s.params.pbufCap offset = .status)
    (hbad : ¬ (offset = 0x004#9 ∧ width = 32)) : hostRead offset width s = s.faultRead .badAccess := by
  rw [hostRead, ht]
  exact if_neg hbad

theorem hostRead_pbuf_of_bad (ht : target s.params.pbufCap offset = .pbuf i) (hbad : width ≠ 8) :
    hostRead offset width s = s.faultRead .badAccess := by
  rw [hostRead, ht]
  exact if_neg hbad

theorem readPbuf_of_written {b : Byte} (hp : s.phase = .ready) (hb : Memory.read s.pbuf i = some b) :
    s.readPbuf i = s.respond (b.setWidth 32) := by
  simp [State.readPbuf, s.busy_false_iff.2 hp, hb]

/-- Any byte, and no M1 (log 7). -/
theorem readPbuf_of_busy (hp : s.phase ≠ .ready) :
    s.readPbuf i = (s.respond ((Config.freeByte s.draws).setWidth 32)).draw 1 :=
  if_pos (s.busy_iff.2 hp)

/-! The step that takes an access -/

theorem step_hostWrite (hok : s.params.Ok) (hr : s.refused = false)
    (hi : s.inputs = .host (.write offset width data) :: rest) :
    step s = hostWrite offset width data (s.withInputs rest) :=
  step_takeInput hok hr hi

theorem step_hostRead (hok : s.params.Ok) (hr : s.refused = false)
    (hi : s.inputs = .host (.read offset width) :: rest) :
    step s = .next (hostRead offset width (s.withInputs rest)) :=
  step_takeInput hok hr hi

/-- Settles O39: the offset's target is reserved, so the access is fault 9. -/
theorem reservedOffsetIsAFault : Obligations.ReservedOffsetIsAFault := by
  intro s rest offset width data hok hr hoffset
  have ht : target (s.withInputs rest).params.pbufCap offset = .reserved := target_eq_reserved.2 hoffset
  refine ⟨fun hi => ?_, fun hi => ?_⟩
  · rw [step_hostWrite hok hr hi, hostWrite_reserved ht]
    rfl
  · rw [step_hostRead hok hr hi, hostRead_reserved ht]
    rfl

/-- Settles O40: the rules for CMD, STATUS and PBUF, one for each way to be a bad access. -/
theorem badAccessIsAFault : Obligations.BadAccessIsAFault := by
  intro s rest offset width data hok hr
  refine ⟨fun hbad hi => ?_, fun hlo hhi hw hp hi => ?_, fun hbad hi => ?_⟩
  · have hfault : hostWrite offset width data (s.withInputs rest) =
        .next ((s.withInputs rest).raiseFault .badAccess) := by
      rcases hbad with ⟨ho, hbad⟩ | ho | ⟨hlo, hhi, hw, hp⟩
      · exact hostWrite_cmd_of_bad (target_eq_cmd.2 ho) hbad
      · exact hostWrite_status (target_eq_status.2 ho)
      · rw [← badPbufWrite_of_ready (s := s.withInputs rest) hp]
        exact hostWrite_pbuf_of_bad (target_pbuf hlo hhi) hw
    rw [step_hostWrite hok hr hi, hfault]
    rfl
  · obtain ⟨k, hk, hfault⟩ := badPbufWrite_of_busy (s := s.withInputs rest) hp
    refine ⟨k, hk, ?_⟩
    rw [step_hostWrite hok hr hi, hostWrite_pbuf_of_bad (s := s.withInputs rest) (target_pbuf hlo hhi) hw, hfault]
    rfl
  · have hfault : hostRead offset width (s.withInputs rest) = (s.withInputs rest).faultRead .badAccess := by
      rcases hbad with ⟨ho, hbad⟩ | ⟨hlo, hhi, hbad⟩ | ⟨hlo, hhi, hw⟩
      · exact hostRead_cmd_of_bad (target_eq_cmd.2 ho) hbad
      · exact hostRead_status_of_bad (target_eq_status.2 ⟨hlo, hhi⟩) hbad
      · exact hostRead_pbuf_of_bad (target_pbuf hlo hhi) hw
    rw [step_hostRead hok hr hi, hfault]
    rfl

/-- Settles O41: while READY a byte access is a write or a read of its cell. -/
theorem hostAccessesPbufByteWise : Obligations.HostAccessesPbufByteWise := by
  intro s rest offset data hok hr hp hlo hhi
  refine ⟨fun hi => ⟨Memory.write s.pbuf (offset.toNat - 0x100) (data.setWidth 8), ?_, ?_, fun a ha => ?_⟩,
    fun b hi hb => ?_⟩
  · rw [step_hostWrite hok hr hi, hostWrite_pbuf_of_ready (s := s.withInputs rest) (target_pbuf hlo hhi) hp]
    rfl
  · rw [Memory.read_write_self, BitVec.setWidth_eq_extractLsb' (by decide)]
  · exact Memory.read_write_of_ne s.pbuf _ ha
  · rw [step_hostRead hok hr hi, hostRead_pbuf (s := s.withInputs rest) hlo hhi,
      readPbuf_of_written (s := s.withInputs rest) hp hb]
    rfl

/-- Settles O42: while BUSY a byte write is fault 7, and a byte read draws its answer. -/
theorem pbufIsTheBlocksWhileBusy : Obligations.PbufIsTheBlocksWhileBusy := by
  intro s rest offset data hok hr hp hlo hhi
  refine ⟨fun hi => ?_, fun hi => ⟨Config.freeByte s.draws, ?_⟩⟩
  · rw [step_hostWrite hok hr hi, hostWrite_pbuf_of_busy (s := s.withInputs rest) (target_pbuf hlo hhi) hp]
    rfl
  · rw [step_hostRead hok hr hi, hostRead_pbuf (s := s.withInputs rest) hlo hhi,
      readPbuf_of_busy (s := s.withInputs rest) hp]
    rfl

/-- While BUSY an access can only record a fault, answer a read and draw. -/
theorem takeInput_host_of_busy {a : HostAccess} (hp : s.phase ≠ .ready) (h : takeInput (.host a) s = .next t) :
    t = { s with fault := t.fault, faultCode := t.faultCode, readData := t.readData, draws := t.draws } := by
  rcases takeInput_cases h with ⟨-, k, j, -, rfl | rfl⟩ | ⟨o, w, d, j, due, -, hdue, rfl⟩ |
    ⟨o, d, i, -, -, -, hready, -⟩ | ⟨w, i, -, -, hready, -⟩ | ⟨a, c, ha, -⟩ | ⟨ha, -⟩
  · rfl
  · rfl
  · obtain rfl : due = false := Bool.eq_false_iff.2 fun hd => hp (hdue hd)
    ext1 <;> simp
  · exact absurd hready hp
  · exact absurd hready hp
  · cases ha
  · cases ha

/-- Settles O56: the step takes the access, which finds the block BUSY. -/
theorem hostCannotDisturbACommandInFlight : Obligations.HostCannotDisturbACommandInFlight := by
  intro s t a hok hp hhead hstep
  rcases step_next hstep with ⟨hbad, -, -⟩ | ⟨-, hi, -⟩ | ⟨e, rest, -, -, hi, htake⟩
  · exact absurd hok hbad
  · rw [hi] at hhead; cases hhead
  · rw [hi] at hhead ⊢
    cases hhead
    exact takeInput_host_of_busy (s := s.withInputs rest) hp htake

end Sys2Proof.Machine
end

section
/-! PROOFS. Waiting, and the transport answers that break their contract (20_memory.md R65, R66). -/

namespace Sys2Proof.Machine

variable {s : State} {a : TransportAnswer}

/-- Settles O21: of what a step can do, only waiting fits a state with nothing refused and no input. -/
theorem noInputNoChange : Obligations.NoInputNoChange := by
  intro s hok hr hi
  rcases step_cases s with ⟨hr', -⟩ | ⟨hbad, -⟩ | ⟨-, -, -, h⟩ | ⟨e, rest, -, -, hi', -⟩
  · rw [hr] at hr'; cases hr'
  · exact absurd hok hbad
  · exact h
  · rw [hi] at hi'; cases hi'

/-- The numbers on the port that are no Callback Result (30_encoding.md R90). -/
theorem ofCode_eq_none_of_ge {cb : Nat} (h : 3 ≤ cb) : CallbackResult.ofCode cb = none := by
  cases hcode : CallbackResult.ofCode cb with
  | none => rfl
  | some r => exact absurd (ofCode_lt hcode) (by omega)

/-! What each call does not accept -/

theorem write_rejects {bs : List Byte} {n ms : Nat} (h : ∀ cb, a = .write cb → 3 ≤ cb) :
    (TransportCall.write bs n ms).accepts a = false := by
  cases a with
  | write cb => simp [TransportCall.accepts, ofCode_eq_none_of_ge (h cb rfl)]
  | read cb bytes => rfl
  | idle => rfl

theorem read_rejects {n ms : Nat} (h : ∀ cb bytes, a = .read cb bytes → 3 ≤ cb ∨ cb = 0 ∧ bytes.length ≠ n) :
    (TransportCall.read n ms).accepts a = false := by
  cases a with
  | write cb => rfl
  | read cb bytes =>
    rcases h cb bytes rfl with hcb | ⟨rfl, hlen⟩
    · simp [TransportCall.accepts, ofCode_eq_none_of_ge hcb]
    · simp [TransportCall.accepts, hlen]
  | idle => rfl

theorem idle_rejects {n : Nat} (h : a ≠ .idle) : (TransportCall.idle n).accepts a = false := by
  cases a with
  | write cb => rfl
  | read cb bytes => rfl
  | idle => exact absurd rfl h

/-- An answer that the outstanding call, if there is one, does not accept is discarded. -/
theorem transportAnswer_of_rejected (h : ∀ c, s.tcall = some c → c.accepts a = false) :
    s.transportAnswer a = s.raiseFault .transportViolation := by
  rcases transportAnswer_cases a s with ⟨bs, n, ms, cb, r, hc, rfl, hcb, -⟩ | ⟨n, hc, rfl, -⟩ |
    ⟨n, ms, cb, bs, hc, rfl, hcb, hl, -⟩ | ⟨n, ms, cb, bs, r, hc, rfl, hcb, hr, -⟩ | ⟨-, he⟩
  · simpa [TransportCall.accepts, hcb] using h _ hc
  · simpa [TransportCall.accepts] using h _ hc
  · simpa [TransportCall.accepts, hcb, hl] using h _ hc
  · have hz : cb ≠ 0 := by
      rintro rfl
      cases hcb
      exact hr rfl
    simpa [TransportCall.accepts, hcb, hz] using h _ hc
  · exact he

/-- Settles O20: each of the four causes is an answer that the outstanding call does not accept. -/
theorem transportViolationIsDiscarded : Obligations.TransportViolationIsDiscarded := by
  intro s rest a hok hr hi hcause
  have hrejected : ∀ c, s.tcall = some c → c.accepts a = false := by
    rcases hcause with hc | ⟨bs, n, ms, hc, ha⟩ | ⟨n, ms, hc, ha⟩ | ⟨n, hc, ha⟩ <;> rw [hc]
    · nofun
    · rintro _ ⟨⟩; exact write_rejects ha
    · rintro _ ⟨⟩; exact read_rejects ha
    · rintro _ ⟨⟩; exact idle_rejects ha
  have hstep : step s = .next ((s.withInputs rest).transportAnswer a) := step_takeInput hok hr hi
  rw [hstep, transportAnswer_of_rejected (s := s.withInputs rest) hrejected]
  rfl

end Sys2Proof.Machine
end

section
/-! PROOFS. PBUF: what REQUEST_WRITE takes from it, and which inputs change it (20_memory.md R52-R54). -/

namespace Sys2Proof.Machine

variable {s t : State}

/-! REQUEST_WRITE -/

theorem execRequestWrite_of_fits {n : Nat} (hp : s.phase = .ready) (hdone : s.initDone = true)
    (hfit : flen s.mode n ≤ s.params.wbCap) : exec (.requestWrite n) s = .next (s.sendFrame n) := by
  have hnone := transferFault_eq_none hp hdone
  rcases execRequestWrite_cases n s with ⟨k, hk, -⟩ | ⟨-, hlong, -⟩ | ⟨-, -, h⟩
  · rw [hnone] at hk; cases hk
  · omega
  · exact h

@[simp] theorem State.sendFrame_pbuf (n : Nat) (s : State) : (s.sendFrame n).pbuf = s.pbuf := by
  simp [State.sendFrame]

/-- A frame sent records M1 exactly when a cell of its payload holds no value (20_memory.md R53). -/
theorem State.sendFrame_m1 (n : Nat) (s : State) :
    (s.sendFrame n).m1 = (s.m1 || decide (Memory.missing s.pbuf 0 n ≠ 0)) := by
  simp [State.sendFrame, State.afterSnapshot]

/-- Settles O12: the frame is the encoding of the snapshot, which takes every cell that holds a value as it is. -/
theorem unwrittenPayloadRunsAndRecordsM1 : Obligations.UnwrittenPayloadRunsAndRecordsM1 := by
  intro n s hp hdone hfit ⟨j, hj, hempty⟩
  have hmissing : Memory.missing s.pbuf 0 n ≠ 0 := fun h =>
    Memory.missing_eq_zero_iff.1 h j hj (by rwa [Nat.zero_add])
  obtain ⟨-, -, -, -, hfault, hcode⟩ := setup_eq_iff.1 (State.sendFrame_setup n s)
  refine ⟨s.sendFrame n, s.payload n, execRequestWrite_of_fits hp hdone hfit, payload_length n s,
    fun i b hi hb => ?_, sendFrame_tcall n s, State.sendFrame_phase n s, ?_, hfault, hcode, State.sendFrame_pbuf n s⟩
  · exact Memory.snapshot_getElem? hi (by rwa [Nat.zero_add])
  · simp [State.sendFrame_m1, hmissing]

/-! A received frame -/

theorem frameReceived_result (bs : List Byte) (s : State) :
    (s.frameReceived bs).result = .success ∨ (s.frameReceived bs).result = .corrupted := by
  unfold State.frameReceived
  rcases conclude_cases s.curN.toNat _ (State.afterDecode _ s.curN.toNat (s.closeCall.stageFrame bs)) with
    ⟨q, -, h⟩ | ⟨-, h⟩ <;> rw [h]
  · exact .inl rfl
  · exact .inr rfl

/-- A received frame leaves PBUF from CUR_N on as it was (41_commands.md R144). -/
theorem State.Inv.frameReceived_read_of_ge (h : s.Inv) (hp : s.phase = .waitRead) {bs : List Byte}
    (hl : bs.length = s.curFlen.toNat) {a : Nat} (ha : s.curN.toNat ≤ a) :
    Memory.read (s.frameReceived bs).pbuf a = Memory.read s.pbuf a := by
  obtain ⟨⟨hlen, -⟩, -⟩ := h.waitRead hp
  rw [frameReceived_eq hl]
  rcases conclude_cases s.curN.toNat (decodeFrame s.params.hexSentinel s.mode bs s.curN.toNat)
    ((s.closeCall.stageFrame bs).afterDecode bs s.curN.toNat) with ⟨q, hq, he⟩ | ⟨-, he⟩ <;> rw [he]
  · have hq := decodeFrame_ok_length (hl.trans hlen) hq
    simp [Memory.read_store, hq, ha]
  · simp [Memory.read_eraseRange, ha]

/-! The inputs that change PBUF -/

/-- PBUF is left alone by every input but a reset, a host's byte write while READY, and a received frame
(20_memory.md R54). -/
theorem takeInput_pbuf {e : Input} (hreset : e ≠ .reset) (h : takeInput e s = .next t) :
    t.pbuf = s.pbuf ∨
    (∃ o d i, e = .host (.write o 8 d) ∧ o.toNat = 0x100 + i ∧ s.phase = .ready ∧
      t.pbuf = Memory.write s.pbuf i (d.setWidth 8)) ∨
    ∃ bs ms, e = .transport (.read 0 bs) ∧ s.tcall = some (.read bs.length ms) ∧ t = s.frameReceived bs := by
  rcases takeInput_cases h with ⟨-, k, j, -, rfl | rfl⟩ | ⟨o, w, d, j, due, -, -, rfl⟩ | ⟨o, d, i, he, ho, -, hp, rfl⟩ |
    ⟨w, i, -, -, -, hcommand⟩ | ⟨a, c, rfl, hc, hanswer⟩ | ⟨he, -⟩
  · exact .inl rfl
  · exact .inl rfl
  · exact .inl rfl
  · exact .inr (.inl ⟨o, d, i, he, ho, hp, rfl⟩)
  · rcases hcommand with ⟨m, b, -, -, -, rfl⟩ | ⟨n, -, -, -, rfl⟩ | ⟨n, -, -, -, rfl⟩ | ⟨n, -, -, -, rfl⟩
    · exact .inl rfl
    · exact .inl rfl
    · exact .inl (State.sendFrame_pbuf n s)
    · exact .inl rfl
  · rcases hanswer with ⟨cb, r, -, -, -, rfl⟩ | ⟨-, -, rfl⟩ | ⟨bs, n, ms, rfl, rfl, rfl, rfl⟩ |
      ⟨cb, bs, r, -, -, -, -, rfl⟩
    · rcases writeAnswered_cases r s with ⟨-, -, h⟩ | ⟨-, h⟩ <;> rw [h] <;> exact .inl rfl
    · exact .inl rfl
    · exact .inr (.inr ⟨bs, ms, rfl, hc, rfl⟩)
    · exact .inl rfl
  · exact absurd he hreset

/-- Settles O55: of the inputs that change PBUF, a host write changes its own cell and a received frame none from CUR_N
on. -/
theorem pbufChangesOnlyWhereTheRulesSay : Obligations.PbufChangesOnlyWhereTheRulesSay := by
  intro s t a h hstep hreset hne
  rcases step_next hstep with ⟨hbad, -, -⟩ | ⟨-, -, rfl⟩ | ⟨e, rest, -, -, hi, htake⟩
  · exact absurd h.paramsOk hbad
  · exact absurd rfl hne
  · rw [hi] at hreset ⊢
    have hinv := h.withInputs rest
    rcases takeInput_pbuf (fun he => hreset (he ▸ rfl)) htake with hpbuf | ⟨o, d, i, rfl, ho, hp, hpbuf⟩ |
      ⟨bs, ms, rfl, hc, rfl⟩
    · exact absurd (congrArg (Memory.read · a) hpbuf) hne
    · obtain rfl : a = i := by
        by_contra hai
        exact hne (by rw [hpbuf, Memory.read_write_of_ne _ _ hai]; rfl)
      refine .inl ⟨hp, o, d, rfl, ho, ?_⟩
      rw [hpbuf, Memory.read_write_self, BitVec.setWidth_eq_extractLsb' (by decide)]
    · have hp := hinv.phase_of_tcall hc
      have hl : bs.length = s.curFlen.toNat := by
        have hcall := hc.symm.trans (hinv.waitRead hp).2
        injection hcall with hcall
        injection hcall
      have ha : a < s.curN.toNat := by
        by_contra hge
        exact hne (hinv.frameReceived_read_of_ge hp hl (Nat.le_of_not_lt hge))
      exact .inr ⟨hp, (frameReceived_ends bs _).1, ha, frameReceived_result bs _, bs, rfl⟩

end Sys2Proof.Machine
end

section
/-! PROOFS. The command word: which words the decoder reads as which command (30_encoding.md R84), and that every
word is its fields beside must-be-zero bits. -/

namespace Sys2Proof.Machine

open Sys2Proof.Laws

variable {w : Word} {s : State}

/-! What the decoder answers, by the fields -/

theorem decode_eq_init {m : Mode} {b : Bool} : decode w = .ok (.init m b) ↔
    fieldOpc w = 0x0#4 ∧ w &&& 0xFFFCFFFF#32 = 0#32 ∧ fieldMode w = m ∧ fieldIdle w = b := by
  unfold decode
  split_ifs <;> simp [*]

theorem decode_eq_requestWrite {n : Nat} : decode w = .ok (.requestWrite n) ↔
    fieldOpc w = 0x1#4 ∧ w &&& 0x0FFF0000#32 = 0#32 ∧ fieldLen w = n := by
  unfold decode
  split_ifs <;> simp [*]

theorem decode_eq_answerRead {n : Nat} : decode w = .ok (.answerRead n) ↔
    fieldOpc w = 0x2#4 ∧ w &&& 0x0FFF0000#32 = 0#32 ∧ fieldLen w = n := by
  unfold decode
  split_ifs <;> simp [*]

theorem decode_eq_reservedOpcode : decode w = .error .reservedOpcode ↔
    fieldOpc w ≠ 0x0#4 ∧ fieldOpc w ≠ 0x1#4 ∧ fieldOpc w ≠ 0x2#4 := by
  unfold decode
  split_ifs <;> simp [*]

theorem decode_eq_reservedBits : decode w = .error .reservedBits ↔
    (fieldOpc w = 0x0#4 ∧ w &&& 0xFFFCFFFF#32 ≠ 0#32) ∨
    ((fieldOpc w = 0x1#4 ∨ fieldOpc w = 0x2#4) ∧ w &&& 0x0FFF0000#32 ≠ 0#32) := by
  unfold decode
  split_ifs <;> simp [*]

/-- Settles O1: the fields of an encoded instruction are its operands, and the must-be-zero bits are 0. -/
theorem decodeEncodeRoundTrip : Obligations.DecodeEncodeRoundTrip := by
  intro i hwf
  cases i with
  | init m b => exact decode_eq_init.2 (EncodedFields.init m b)
  | requestWrite n => exact decode_eq_requestWrite.2 (EncodedFields.requestWrite n hwf)
  | answerRead n => exact decode_eq_answerRead.2 (EncodedFields.answerRead n hwf)

/-! A word is its fields -/

theorem getLsbD_of_and_eq_zero {mask : Word} {i : Nat} (h : w &&& mask = 0#32) (hi : mask.getLsbD i = true) :
    w.getLsbD i = false := by
  simpa [hi] using congrArg (·.getLsbD i) h

theorem fieldMode_bit (w : Word) : (fieldMode w).bit = w.getLsbD 16 := by
  unfold fieldMode
  cases w.getLsbD 16 <;> rfl

theorem ofNat_fieldLen (w : Word) : BitVec.ofNat 16 (fieldLen w) = w.extractLsb' 0 16 :=
  (BitVec.ofNat_toNat ..).trans (BitVec.setWidth_eq _)

/-- A word whose bits [27:18] are 0 is the command word of its fields (30_encoding.md R80). -/
theorem commandWord_fields (h : w &&& 0x0FFC0000#32 = 0#32) :
    commandWord (fieldOpc w) (fieldIdle w) (w.getLsbD 16) (w.extractLsb' 0 16) = w := by
  have hmask : ∀ j < 28, 18 ≤ j → (0x0FFC0000#32).getLsbD j = true := by decide
  refine BitVec.eq_of_getLsbD_eq fun i hi => ?_
  rw [commandWord_getLsbD]
  split_ifs with hlen hmode hidle hrsv
  · simp [hlen]
  · rw [hmode]
  · rw [hidle, fieldIdle]
  · exact (getLsbD_of_and_eq_zero h (hmask i hrsv (by omega))).symm
  · have hopc : i - 28 < 4 := by omega
    simp [fieldOpc, hopc, show 28 + (i - 28) = i by omega]

theorem and_eq_zero_of_submask {mask sub : Word} (h : w &&& mask = 0#32) (hsub : mask &&& sub = sub) :
    w &&& sub = 0#32 := by
  rw [← hsub, ← BitVec.and_assoc, h, BitVec.zero_and]

/-- A transfer command's word is its opcode and its LEN field (30_encoding.md R82). -/
theorem commandWord_transfer {opc : BitVec 4} (hopc : fieldOpc w = opc) (h : w &&& 0x0FFF0000#32 = 0#32) :
    commandWord opc false false (BitVec.ofNat 16 (fieldLen w)) = w := by
  have hidle : fieldIdle w = false := getLsbD_of_and_eq_zero h (by decide)
  have hmode : w.getLsbD 16 = false := getLsbD_of_and_eq_zero h (by decide)
  have hw := commandWord_fields (and_eq_zero_of_submask h (by decide))
  rwa [hopc, hidle, hmode, ← ofNat_fieldLen] at hw

/-- INIT's word is its IDLE_EN and MODE bits (30_encoding.md R82). -/
theorem commandWord_init (hopc : fieldOpc w = 0x0#4) (h : w &&& 0xFFFCFFFF#32 = 0#32) :
    commandWord 0x0#4 (fieldIdle w) (fieldMode w).bit 0#16 = w := by
  have hlen : w.extractLsb' 0 16 = 0#16 := by
    have hand := congrArg (·.extractLsb' 0 16) h
    rw [BitVec.extractLsb'_and] at hand
    exact BitVec.and_allOnes.symm.trans hand
  have hw := commandWord_fields (and_eq_zero_of_submask h (by decide))
  rwa [hopc, hlen, ← fieldMode_bit] at hw

/-- Settles O2: the must-be-zero bits are the ones the instruction does not hold, so its fields are the whole word. -/
theorem encodeDecodeRoundTrip : Obligations.EncodeDecodeRoundTrip := by
  intro w i h
  cases i with
  | init m b =>
    obtain ⟨hopc, hmask, rfl, rfl⟩ := decode_eq_init.1 h
    exact ⟨trivial, commandWord_init hopc hmask⟩
  | requestWrite n =>
    obtain ⟨hopc, hmask, rfl⟩ := decode_eq_requestWrite.1 h
    exact ⟨BitVec.isLt _, commandWord_transfer hopc hmask⟩
  | answerRead n =>
    obtain ⟨hopc, hmask, rfl⟩ := decode_eq_answerRead.1 h
    exact ⟨BitVec.isLt _, commandWord_transfer hopc hmask⟩

/-! The masks of 30_encoding.md R82 that hold the opcode field -/

theorem append_eq_append_iff {m n : Nat} {a c : BitVec m} {b d : BitVec n} :
    a ++ b = c ++ d ↔ a = c ∧ b = d := by
  refine ⟨fun h => ⟨?_, ?_⟩, fun ⟨ha, hb⟩ => ha ▸ hb ▸ rfl⟩
  · simpa only [BitVec.extractLsb'_append_eq_left] using congrArg (·.extractLsb' n m) h
  · simpa only [BitVec.extractLsb'_append_eq_right] using congrArg (·.extractLsb' 0 n) h

/-- A mask with all four opcode bits compares the opcode field; its other bits must be 0. -/
theorem and_mask_eq_iff (w : Word) (opc : BitVec 4) (mask : BitVec 28) :
    w &&& (0xF#4 ++ mask) = opc ++ 0#28 ↔ fieldOpc w = opc ∧ w &&& (0#4 ++ mask) = 0#32 := by
  have hand (bits : BitVec 4) :
      w &&& (bits ++ mask) = (fieldOpc w &&& bits) ++ (w.extractLsb' 0 28 &&& mask) := by
    rw [← BitVec.and_append, fieldOpc, BitVec.extractLsb'_append_extractLsb' (w := 4) (len := 28)]
  have hones : fieldOpc w &&& 0xF#4 = fieldOpc w := BitVec.and_allOnes
  rw [hand, hand, hones, BitVec.and_zero, show (0#32 : Word) = 0#4 ++ 0#28 from rfl, append_eq_append_iff,
    append_eq_append_iff, and_iff_right (rfl : (0#4 : BitVec 4) = 0#4)]

theorem and_init_eq_iff (w : Word) :
    w &&& 0xFFFCFFFF#32 = 0x00000000#32 ↔ fieldOpc w = 0x0#4 ∧ w &&& 0x0FFCFFFF#32 = 0#32 :=
  and_mask_eq_iff w 0x0#4 0xFFCFFFF#28

theorem and_requestWrite_eq_iff (w : Word) :
    w &&& 0xFFFF0000#32 = 0x10000000#32 ↔ fieldOpc w = 0x1#4 ∧ w &&& 0x0FFF0000#32 = 0#32 :=
  and_mask_eq_iff w 0x1#4 0xFFF0000#28

theorem and_answerRead_eq_iff (w : Word) :
    w &&& 0xFFFF0000#32 = 0x20000000#32 ↔ fieldOpc w = 0x2#4 ∧ w &&& 0x0FFF0000#32 = 0#32 :=
  and_mask_eq_iff w 0x2#4 0xFFF0000#28

/-! The classes of words -/

theorem fieldMode_eq_iff {m : Mode} : fieldMode w = m ↔ (m = .rtu ↔ w.getLsbD 16 = true) := by
  unfold fieldMode
  cases m <;> cases w.getLsbD 16 <;> simp

theorem three_le_iff (opc : BitVec 4) : 3 ≤ opc.toNat ↔ opc ≠ 0x0#4 ∧ opc ≠ 0x1#4 ∧ opc ≠ 0x2#4 := by
  revert opc
  decide

/-- Settles O3: each class is what the decoder asks of the fields, with the opcode field written as part of the mask. -/
theorem decodeClassifiesEveryWord : Obligations.DecodeClassifiesEveryWord := by
  intro w
  refine ⟨fun m b => ?_, fun n => ?_, fun n => ?_, ?_, decode_eq_reservedBits⟩
  · have hopc := fun h => ((and_init_eq_iff w).1 h).1
    rw [decode_eq_init, fieldMode_eq_iff, eq_comm (a := fieldIdle w)]
    exact ⟨fun ⟨_, h⟩ => h, fun h => ⟨hopc h.1, h⟩⟩
  · rw [decode_eq_requestWrite, and_requestWrite_eq_iff, and_assoc, eq_comm (a := fieldLen w)]
    rfl
  · rw [decode_eq_answerRead, and_answerRead_eq_iff, and_assoc, eq_comm (a := fieldLen w)]
    rfl
  · rw [decode_eq_reservedOpcode]
    exact (three_le_iff _).symm

/-- Settles O4, by running the decoder on each word. -/
theorem sampleCommandWordsDecode : Obligations.SampleCommandWordsDecode :=
  ⟨rfl, rfl, rfl, rfl, rfl, rfl, rfl⟩

theorem acceptWord_of_error {e : DecodeError} (h : decode w = .error e) :
    acceptWord w s = .next (s.raiseFault (faultOfDecodeError e)) := by
  rw [acceptWord, decodeFor_of_error h]

/-- Settles O7: each way to be reserved is one of the decoder's errors, and an error only raises its fault. -/
theorem reservedEncodingIsAFault : Obligations.ReservedEncodingIsAFault := by
  intro w s
  refine ⟨fun hopc => acceptWord_of_error (decode_eq_reservedOpcode.2 ((three_le_iff _).1 hopc)), fun hbits => ?_⟩
  refine acceptWord_of_error (decode_eq_reservedBits.2 (hbits.imp_left fun ⟨hopc, hbit⟩ => ⟨hopc, fun h => ?_⟩))
  exact hbit ((and_init_eq_iff w).1 h).2

end Sys2Proof.Machine
end

section
/-! PROOFS. The frames on the wire, byte by byte (30_encoding.md R92-R96). -/

namespace Sys2Proof.Machine

/-! The ASCII frame -/

theorem hexDigit_toNat : ∀ v : BitVec 4,
    (hexDigit v).toNat = if v.toNat ≤ 9 then 0x30 + v.toNat else 0x41 + (v.toNat - 10) := by decide

/-- The two digits of the payload's byte `i` stand at `2 * i` (30_encoding.md R92). -/
theorem hexPairs_getElem? {p : List Byte} {i : Nat} {b : Byte} (h : p[i]? = some b) :
    (hexPairs p)[2 * i]? = some (hexDigit (b.extractLsb' 4 4)) ∧
    (hexPairs p)[2 * i + 1]? = some (hexDigit (b.extractLsb' 0 4)) := by
  induction p generalizing i with
  | nil => simp at h
  | cons c p ih =>
    cases i with
    | zero =>
      obtain rfl : c = b := by simpa using h
      exact ⟨rfl, rfl⟩
    | succ i => exact ih (by simpa using h)

/-- The bytes between the colon and the LRC are the payload's digits. -/
theorem asciiEncode_getElem?_digits {p : List Byte} {j : Nat} (hj : j < 2 * p.length) :
    (asciiEncode p)[j + 1]? = (hexPairs p)[j]? := by
  simp [asciiEncode, List.getElem?_append_left, hj]

/-- The bytes from the LRC on. -/
theorem asciiEncode_getElem?_trailer (p : List Byte) (j : Nat) :
    (asciiEncode p)[2 * p.length + 1 + j]? = (hexPair (lrc p) ++ [cr, lf])[j]? := by
  have hhead : ([colon] ++ hexPairs p).length = 2 * p.length + 1 := by simp
  rw [asciiEncode, List.append_assoc, List.getElem?_append_right (by omega), hhead, Nat.add_sub_cancel_left]

/-- Settles O28: the colon, the digits of each byte at their place, and the four bytes after them. -/
theorem asciiFrameLayout : Obligations.AsciiFrameLayout := by
  refine ⟨hexDigit_toNat, fun p => ⟨asciiEncode_length p, rfl, fun i b hb => ?_, asciiEncode_getElem?_trailer p 0,
    asciiEncode_getElem?_trailer p 1, asciiEncode_getElem?_trailer p 2, asciiEncode_getElem?_trailer p 3⟩⟩
  obtain ⟨hi, -⟩ := List.getElem?_eq_some_iff.1 hb
  obtain ⟨hhigh, hlow⟩ := hexPairs_getElem? hb
  rw [← asciiEncode_getElem?_digits (by omega)] at hhigh hlow
  rw [Nat.add_comm 1, Nat.add_comm 2]
  exact ⟨hhigh, hlow⟩

/-! The RTU frame -/

/-- The bytes after the payload are the CRC's. -/
theorem rtuEncode_getElem?_crc (p : List Byte) (j : Nat) :
    (rtuEncode p)[p.length + j]? = (crcBytes (crc16 p))[j]? := by
  rw [rtuEncode, List.getElem?_append_right (Nat.le_add_right ..), Nat.add_sub_cancel_left]

/-- Settles O34: the payload's bytes at their own index, then the CRC's two. -/
theorem rtuFrameLayout : Obligations.RtuFrameLayout :=
  ⟨rfl, fun p => ⟨rtuEncode_length p, fun _ hi => List.getElem?_append_left hi, rtuEncode_getElem?_crc p 0,
    rtuEncode_getElem?_crc p 1⟩⟩

end Sys2Proof.Machine
end

section
/-! PROOFS. The checksum generators: the LRC as the negated sum of the bytes (40_checksums.md R111-R113), and the CRC
as a register that takes in one bit at a time (R115-R118). -/

namespace Sys2Proof.Machine

/-! The LRC -/

theorem lrcAccumulate_eq_sum (p : List Byte) : lrcAccumulate p = p.sum := by
  induction p with
  | nil => rfl
  | cons b p ih => rw [lrcAccumulate_cons, List.sum_cons, ih]

/-- Settles O23: negation modulo 2^8, applied to the sum modulo 2^8. -/
theorem lrcIsTheNegatedByteSum : Obligations.LrcIsTheNegatedByteSum := by
  intro p
  rw [lrc_eq_neg, BitVec.toNat_neg, lrcAccumulate_toNat]

/-- A changed byte changes the sum by the difference of the two (40_checksums.md R113 (f)). -/
theorem lrcAccumulate_set_ne {p : List Byte} {i : Nat} {a b : Byte} (ha : p[i]? = some a) (hab : a ≠ b) :
    lrcAccumulate (p.set i b) ≠ lrcAccumulate p := by
  obtain ⟨hi, rfl⟩ := List.getElem?_eq_some_iff.1 ha
  have hset : lrcAccumulate (p.set i b) = lrcAccumulate p + (-p[i] + b) := by
    rw [lrcAccumulate_eq_sum, lrcAccumulate_eq_sum, List.sum_set', dif_pos hi]
  rw [hset, Ne, add_eq_left, neg_add_eq_zero]
  exact hab

/-- Settles O24: the fixed values by evaluation, the laws of the sum by O23's formula, the order and the changed byte
by the accumulator. -/
theorem lrcLaws : Obligations.LrcLaws := by
  refine ⟨rfl, rfl, rfl, rfl, rfl, fun p hp => ?_, fun p => ?_, fun p q hpq => ?_, fun p i b hi hb => ?_⟩
  · apply BitVec.eq_of_toNat_eq
    rw [lrcIsTheNegatedByteSum p, hp]
    rfl
  · rw [lrcIsTheNegatedByteSum p]
    omega
  · rw [lrc_eq_neg, lrc_eq_neg, lrcAccumulate_eq_sum, lrcAccumulate_eq_sum, hpq.sum_eq]
  · obtain ⟨a, ha⟩ := Option.ne_none_iff_exists'.1 hi
    have hab : a ≠ b := fun h => hb (by rw [ha, h])
    rw [lrc_eq_neg, lrc_eq_neg, Ne, neg_inj]
    exact lrcAccumulate_set_ne ha hab

/-! The residue of the CRC -/

theorem byte_ushiftRight_eight (b : Byte) : b.setWidth 16 >>> 8 = 0#16 := by
  rw [← BitVec.setWidth_ushiftRight (by decide), BitVec.ushiftRight_eq_zero (by decide), BitVec.setWidth_zero]

/-- A byte equal to the register's low byte cancels it: only the high byte is left. -/
theorem crcByte_low_byte (c : Half) : crcByte c (c.extractLsb' 0 8) = c >>> 8 := by
  have hlow : ∀ i < 8, (c ^^^ (c.extractLsb' 0 8).setWidth 16).getLsbD i = false := by
    intro i hi
    have : i < 16 := by omega
    simp [hi, this]
  rw [crcByte, crcShift_of_low_zero hlow, BitVec.ushiftRight_xor_distrib, byte_ushiftRight_eight, BitVec.xor_zero]

/-- The register's own two bytes, low byte first, clear it (40_checksums.md R118 (c)). -/
theorem crcFrom_crcBytes (c : Half) : crcFrom c (crcBytes c) = 0#16 := by
  have hhigh : (c >>> 8).extractLsb' 0 8 = c.extractLsb' 8 8 := by
    refine BitVec.eq_of_getLsbD_eq fun i hi => ?_
    simp [BitVec.getLsbD_ushiftRight]
  calc crcFrom c (crcBytes c) = crcByte (crcByte c (c.extractLsb' 0 8)) (c.extractLsb' 8 8) := rfl
    _ = c >>> 8 >>> 8 := by rw [crcByte_low_byte, ← hhigh, crcByte_low_byte]
    _ = 0#16 := by rw [← BitVec.shiftRight_add, BitVec.ushiftRight_eq_zero (by decide)]

/-- Settles O25: the CRC's own bytes are run from the register that holds the CRC; the bytes [FF FF] are those of the
initial register. -/
theorem crcResidueIsZero : Obligations.CrcResidueIsZero := by
  refine ⟨rfl, crcFrom_crcBytes 0xFFFF#16, fun p => ?_⟩
  rw [crc16, crcFrom_append]
  exact crcFrom_crcBytes _

/-! The CRC bit by bit, and its reflection -/

/-- One shift of CRC_REG that takes in one bit of the input. -/
def reflectedStep (c : Half) (bit : Bool) : Half :=
  if c.getLsbD 0 ^^ bit then (c >>> 1) ^^^ 0xA001#16 else c >>> 1

/-- One shift of the normal-form register (40_checksums.md R115: polynomial 0x8005, most significant bit first). -/
def normalStep (c : Half) (bit : Bool) : Half :=
  if c.msb ^^ bit then (c <<< 1) ^^^ 0x8005#16 else c <<< 1

/-- The bits of `x` that a shift does not take in pass through it, shifted. -/
theorem crcBit_xor (c x : Half) : crcBit (c ^^^ x) = reflectedStep c (x.getLsbD 0) ^^^ (x >>> 1) := by
  rw [crcBit, reflectedStep, BitVec.getLsbD_xor, BitVec.ushiftRight_xor_distrib]
  split
  · rw [BitVec.xor_assoc, BitVec.xor_comm (x >>> 1), ← BitVec.xor_assoc]
  · rfl

/-- The lowest `k` bits of `x`, lowest first. -/
def lowBits (k : Nat) (x : Half) : List Bool := (List.range k).map x.getLsbD

theorem lowBits_succ (k : Nat) (x : Half) : lowBits (k + 1) x = x.getLsbD 0 :: lowBits k (x >>> 1) := by
  simp [lowBits, List.range_succ_eq_map, BitVec.getLsbD_ushiftRight, Nat.add_comm 1]

/-- `k` shifts take in the lowest `k` bits of what was added to the register, one at a time. -/
theorem crcShift_xor (k : Nat) (c x : Half) :
    crcShift k (c ^^^ x) = (lowBits k x).foldl reflectedStep c ^^^ (x >>> k) := by
  induction k generalizing c x with
  | zero => simp [crcShift, lowBits]
  | succ k ih => rw [crcShift, crcBit_xor, ih, lowBits_succ, List.foldl_cons, ← BitVec.shiftRight_add, Nat.add_comm 1]

/-- The bits of a byte, least significant first. -/
def byteBits (b : Byte) : List Bool := (List.range 8).map b.getLsbD

theorem crcByte_eq_foldl (c : Half) (b : Byte) : crcByte c b = (byteBits b).foldl reflectedStep c := by
  have hbits : lowBits 8 (b.setWidth 16) = byteBits b := by
    simp [lowBits, byteBits, List.range_succ]
  rw [crcByte, crcShift_xor, hbits, byte_ushiftRight_eight, BitVec.xor_zero]

theorem crcFrom_eq_foldl (c : Half) (p : List Byte) : crcFrom c p = (p.flatMap byteBits).foldl reflectedStep c := by
  rw [crcFrom, List.foldl_flatMap]
  exact congrArg (fun step => p.foldl step c) (funext₂ crcByte_eq_foldl)

theorem reverse_xor (x y : Half) : (x ^^^ y).reverse = x.reverse ^^^ y.reverse := by
  refine BitVec.eq_of_getLsbD_eq fun i hi => ?_
  rw [BitVec.getLsbD_xor, BitVec.getLsbD_reverse, BitVec.getLsbD_reverse, BitVec.getLsbD_reverse, BitVec.getMsbD_xor]

theorem reverse_ushiftRight_one (x : Half) : (x >>> 1).reverse = x.reverse <<< 1 := by
  refine BitVec.eq_of_getLsbD_eq fun i hi => ?_
  rw [BitVec.getLsbD_shiftLeft, BitVec.getLsbD_reverse, BitVec.getLsbD_reverse, BitVec.getMsbD_ushiftRight]
  simp [hi]

/-- A shift of the mirrored register is the mirrored shift; 0xA001 mirrors 0x8005. -/
theorem normalStep_reverse (c : Half) (bit : Bool) : normalStep c.reverse bit = (reflectedStep c bit).reverse := by
  have hpoly : (0xA001#16).reverse = 0x8005#16 := by decide
  rw [normalStep, reflectedStep, BitVec.msb_reverse]
  split
  · rw [reverse_xor, reverse_ushiftRight_one, hpoly]
  · rw [reverse_ushiftRight_one]

/-- Settles O26: the mirror image commutes with every shift, and the initial register is its own. -/
theorem crcIsTheReflectedNormalForm : Obligations.CrcIsTheReflectedNormalForm := by
  intro p
  have hinit : (0xFFFF#16).reverse = 0xFFFF#16 := by decide
  calc (crc16 p).reverse = ((p.flatMap byteBits).foldl reflectedStep 0xFFFF#16).reverse := by
        rw [crc16, crcFrom_eq_foldl]
    _ = (p.flatMap byteBits).foldl normalStep (0xFFFF#16).reverse :=
        (List.foldl_hom BitVec.reverse normalStep_reverse).symm
    _ = (p.flatMap byteBits).foldl normalStep 0xFFFF#16 := by rw [hinit]

/-- Settles O27, by running the generator on each message. -/
theorem crcStandardCheckValue : Obligations.CrcStandardCheckValue :=
  ⟨by decide +kernel, by decide +kernel, by decide +kernel⟩

end Sys2Proof.Machine
end

section
/-! PROOFS. A frame decodes to the payload it encodes, in both modes (42_ascii_codec.md R174, 43_rtu_codec.md R198). -/

namespace Sys2Proof.Machine

theorem asciiEncode_framed (p : List Byte) : asciiFramed (asciiEncode p) p.length = true := by
  have hcr : (asciiEncode p)[2 * p.length + 3]? = some cr := asciiEncode_getElem?_trailer p 2
  have hlf : (asciiEncode p)[2 * p.length + 4]? = some lf := asciiEncode_getElem?_trailer p 3
  have hcolon : (asciiEncode p)[0]? = some colon := rfl
  rw [asciiFramed, hcolon, hcr, hlf]
  rfl

/-- The digits between the colon and the LRC decode to the payload. -/
theorem hexBytes_asciiEncode (x : Byte) (p : List Byte) :
    hexBytes x p.length ((asciiEncode p).drop 1) = (p, false) := by
  have hdrop : (asciiEncode p).drop 1 = hexPairs p ++ (hexPair (lrc p) ++ [cr, lf]) := by simp [asciiEncode]
  rw [hdrop, hexBytes_hexPairs]

/-- The two digits after those of the payload decode to the LRC. -/
theorem hexBytes_asciiEncode_lrc (x : Byte) (p : List Byte) :
    hexBytes x 1 ((asciiEncode p).drop (2 * p.length + 1)) = ([lrc p], false) := by
  have hdrop : (asciiEncode p).drop (2 * p.length + 1) = hexPairs [lrc p] ++ [cr, lf] := by
    rw [asciiEncode, List.append_assoc, List.drop_left' (by simp)]
    rfl
  rw [hdrop]
  exact hexBytes_hexPairs x [lrc p] [cr, lf]

theorem asciiDecode_asciiEncode (x : Byte) (p : List Byte) : asciiDecode x (asciiEncode p) p.length = .ok p := by
  have hpayload : asciiPayload x (asciiEncode p) p.length = p := congrArg Prod.fst (hexBytes_asciiEncode x p)
  simp [asciiDecode, asciiEncode_framed, asciiHexErr, asciiReceivedLrc, hpayload, -List.drop_one,
    hexBytes_asciiEncode, hexBytes_asciiEncode_lrc]

theorem rtuDecode_rtuEncode (p : List Byte) : rtuDecode (rtuEncode p) p.length = .ok p := by
  have hcrc : receivedCrc (crcBytes (crc16 p)) = some (crc16 p) := receivedCrc_crcBytes (crc16 p) []
  simp [rtuDecode, rtuEncode, hcrc]

theorem decodeFrame_encodeFrame (x : Byte) (m : Mode) (p : List Byte) :
    decodeFrame x m (encodeFrame m p) p.length = .ok p := by
  cases m with
  | ascii => exact asciiDecode_asciiEncode x p
  | rtu => exact rtuDecode_rtuEncode p

end Sys2Proof.Machine
end

section
/-! PROOFS. The commands: the acceptance checks, what each command answers once they have passed, and the frame of the
three (41_commands.md R131-R138). -/

namespace Sys2Proof.Machine

variable {s : State} {n : Nat} {i : Instr}

/-! The acceptance checks -/

theorem initFault_of_busy (m : Mode) (b : Bool) (hp : s.phase ≠ .ready) : s.initFault m b = some .cmdWhileBusy :=
  if_pos (s.busy_iff.2 hp)

theorem initFault_of_done (m : Mode) (b : Bool) (hp : s.phase = .ready) (hdone : s.initDone = true) :
    s.initFault m b = some .reinitialize := by
  simp [State.initFault, s.busy_false_iff.2 hp, hdone]

theorem initFault_rtu_without_idle (hp : s.phase = .ready) (hdone : s.initDone = false) :
    s.initFault .rtu false = some .rtuWithoutIdle := by
  simp [State.initFault, s.busy_false_iff.2 hp, hdone]

theorem initFault_eq_none {m : Mode} {b : Bool} (hp : s.phase = .ready) (hdone : s.initDone = false)
    (hm : m = .rtu → b = true) : s.initFault m b = none := by
  simpa [State.initFault, s.busy_false_iff.2 hp, hdone] using hm

theorem transferFault_of_busy (hp : s.phase ≠ .ready) : s.transferFault = some .cmdWhileBusy :=
  if_pos (s.busy_iff.2 hp)

theorem transferFault_of_uninitialised (hp : s.phase = .ready) (hdone : s.initDone = false) :
    s.transferFault = some .notInitialized := by
  simp [State.transferFault, s.busy_false_iff.2 hp, hdone]

theorem exec_init_of_fault {m : Mode} {b : Bool} {k : FaultCode} (hk : s.initFault m b = some k) :
    exec (.init m b) s = .next (s.raiseFault k) := by
  simp [exec, execInit, hk]

/-- A transfer command that a check stops only raises its fault. -/
theorem exec_of_transferFault {k : FaultCode} (hi : ∀ m b, i ≠ .init m b) (hk : s.transferFault = some k) :
    exec i s = .next (s.raiseFault k) := by
  cases i with
  | init m b => exact absurd rfl (hi m b)
  | requestWrite n => simp [exec, execRequestWrite, hk]
  | answerRead n => simp [exec, execAnswerRead, hk]

theorem exec_of_busy (i : Instr) (hp : s.phase ≠ .ready) : exec i s = .next (s.raiseFault .cmdWhileBusy) := by
  cases i with
  | init m b => exact exec_init_of_fault (initFault_of_busy m b hp)
  | requestWrite n => exact exec_of_transferFault nofun (transferFault_of_busy hp)
  | answerRead n => exact exec_of_transferFault nofun (transferFault_of_busy hp)

/-! What an accepted command answers -/

/-- Settles O8: no check stops INIT, which then configures the block. -/
theorem initStoresTheParameters : Obligations.InitStoresTheParameters := by
  intro m b s hp hdone hm
  simp only [exec, execInit, initFault_eq_none hp hdone hm]
  rfl

theorem finish_of_ready (hp : s.phase = .ready) (res : ProtocolResult) : s.finish res = { s with result := res } := by
  rw [State.finish, hp]

section

variable (hp : s.phase = .ready) (hdone : s.initDone = true)

include hp hdone

theorem execRequestWrite_of_long (hlong : s.params.wbCap < flen s.mode n) :
    exec (.requestWrite n) s = .next { s with result := .noBufferSpace } := by
  simp [exec, execRequestWrite, transferFault_eq_none hp hdone, hlong, finish_of_ready hp]

theorem execAnswerRead_of_long (hlong : s.params.wbCap < flen s.mode n) :
    exec (.answerRead n) s = .next { s with result := .noBufferSpace } := by
  simp [exec, execAnswerRead, transferFault_eq_none hp hdone, hlong, finish_of_ready hp]

theorem execAnswerRead_of_fits (hfit : flen s.mode n ≤ s.params.wbCap) :
    exec (.answerRead n) s = .next (s.awaitFrame n) := by
  simp [exec, execAnswerRead, transferFault_eq_none hp hdone, Nat.not_lt.2 hfit]

end

/-- Settles O9: the length check of both transfer commands comes before anything else they do. -/
theorem oversizeFrameGivesNoBufferSpace : Obligations.OversizeFrameGivesNoBufferSpace := fun _ _ hp hdone hlong =>
  ⟨execRequestWrite_of_long hp hdone hlong, execAnswerRead_of_long hp hdone hlong⟩

/-- Settles O13: a read that fits is latched and issued. -/
theorem answerReadIssuesTheRead : Obligations.AnswerReadIssuesTheRead := fun _ _ hp hdone hfit =>
  execAnswerRead_of_fits hp hdone hfit

/-- A command that no check stops leaves the fault record as it is (41_commands.md R131). -/
theorem exec_keeps_faults_of_passes (hp : s.phase = .ready)
    (hpasses : (s.initDone = false ∧ ∃ m b, i = .init m b ∧ i ≠ .init .rtu false) ∨
      (s.initDone = true ∧ ∀ m b, i ≠ .init m b)) :
    ∃ t, exec i s = .next t ∧ t.fault = s.fault ∧ t.faultCode = s.faultCode := by
  rcases exec_cases i s with ⟨k, -, -, hinit, htransfer⟩ | ⟨m, b, -, -, -, -, he⟩ | ⟨n, -, -, -, -, he⟩ |
    ⟨n, -, -, -, -, he⟩ | ⟨n, -, -, -, -, he⟩
  · rcases hpasses with ⟨hdone, m, b, rfl, hne⟩ | ⟨hdone, hi⟩
    · rcases hinit hp m b rfl with hdone' | ⟨rfl, rfl⟩
      · rw [hdone] at hdone'; cases hdone'
      · exact absurd rfl hne
    · have hdone' := htransfer hp hi
      rw [hdone] at hdone'; cases hdone'
  · exact ⟨_, he, rfl, rfl⟩
  · exact ⟨_, he, rfl, rfl⟩
  · obtain ⟨-, -, -, -, hfault, hcode⟩ := setup_eq_iff.1 (State.sendFrame_setup n s)
    exact ⟨_, he, hfault, hcode⟩
  · exact ⟨_, he, rfl, rfl⟩

/-- Settles O6: a word that decodes to a length that fits is executed, and the checks are the command's own. -/
theorem acceptanceChecksInOrder : Obligations.AcceptanceChecksInOrder := by
  intro w s
  refine ⟨acceptWord_of_error, acceptWord_of_error, fun i hd hfits => ?_⟩
  have hl : i.lenFits s.params.lenW = true := by
    rcases hfits with h16 | hfits
    · rw [h16]; exact lenFits_of_decode hd
    · exact lenFits_iff.2 hfits
  rw [acceptWord_of_fits hd hl]
  refine ⟨exec_of_busy i, ?_, ?_, fun hp hdone hi => ?_, fun hp hpasses => ?_⟩
  · rintro hp m b rfl hdone
    exact exec_init_of_fault (initFault_of_done m b hp hdone)
  · rintro hp hdone rfl
    exact exec_init_of_fault (initFault_rtu_without_idle hp hdone)
  · exact exec_of_transferFault hi (transferFault_of_uninitialised hp hdone)
  · exact exec_keeps_faults_of_passes hp hpasses

/-! REQUEST_WRITE's frame -/

/-- A payload that has been written is staged and sent as its encoding (41_commands.md R135, R140, R141). -/
theorem execRequestWrite_of_written {p : List Byte} (hp : s.phase = .ready) (hdone : s.initDone = true)
    (hfit : flen s.mode p.length ≤ s.params.wbCap) (hwritten : ∀ i, i < p.length → Memory.read s.pbuf i = p[i]?) :
    exec (.requestWrite p.length) s = .next
      ((((s.latch 1#2 p.length (flen s.mode p.length)).afterEncode p).stageFrame (encodeFrame s.mode p)).issue
        (.write (encodeFrame s.mode p) (flen s.mode p.length) s.params.busTimeoutMs) .waitWrite) := by
  obtain ⟨hpayload, hsnapshot⟩ := payload_eq hwritten
  have hstaged := staged_frame s.wb s.mode p
  rw [execRequestWrite_of_fits hp hdone hfit]
  simp [State.sendFrame, hpayload, hsnapshot, hstaged]

/-- Settles O10: the frame sent, with the encoder of ASCII mode. -/
theorem requestWriteAsciiIssuesTheFrame : Obligations.RequestWriteAsciiIssuesTheFrame := by
  intro s p hp hdone hmode hfit hwritten
  rw [execRequestWrite_of_written hp hdone (by rwa [hmode]) hwritten]
  simp only [State.afterEncode, State.latch_mode, hmode]
  rfl

/-- Settles O11: the frame sent, with the encoder of RTU mode. -/
theorem requestWriteRtuIssuesTheFrame : Obligations.RequestWriteRtuIssuesTheFrame := by
  intro s p hp hdone hmode hfit hwritten
  rw [execRequestWrite_of_written hp hdone (by rwa [hmode]) hwritten]
  simp only [State.afterEncode, State.latch_mode, hmode]
  rfl

theorem flen_gt_256_iff {m : Mode} : 256 < flen m n ↔ (m = .ascii → 126 ≤ n) ∧ (m = .rtu → 255 ≤ n) := by
  cases m
  · simp [flen]; omega
  · simp [flen]; omega

theorem flen_le_256_iff {m : Mode} : flen m n ≤ 256 ↔ (m = .ascii → n ≤ 125) ∧ (m = .rtu → n ≤ 254) := by
  cases m
  · simp [flen]; omega
  · simp [flen]

/-- Settles O15: with WB_CAP 256 the largest frame is that of 125 bytes in ASCII and of 254 in RTU. -/
theorem largestPayloads : Obligations.LargestPayloads := by
  intro n s hp hdone hdefaults
  have hcap : s.params.wbCap = 256 := by rw [hdefaults]; rfl
  refine ⟨fun hlong => execRequestWrite_of_long hp hdone ?_, fun hfit =>
    ⟨s.sendFrame n, execRequestWrite_of_fits hp hdone ?_, State.sendFrame_phase n s, State.sendFrame_result n s⟩⟩
  · rw [hcap]
    exact flen_gt_256_iff.2 hlong
  · rw [hcap]
    exact flen_le_256_iff.2 hfit

/-! The frame of the commands -/

@[simp] theorem State.sendFrame_inputs (n : Nat) (s : State) : (s.sendFrame n).inputs = s.inputs := by
  simp [State.sendFrame]

@[simp] theorem State.sendFrame_readData (n : Nat) (s : State) : (s.sendFrame n).readData = s.readData := by
  simp [State.sendFrame]

@[simp] theorem State.sendFrame_hexErr (n : Nat) (s : State) : (s.sendFrame n).hexErr = s.hexErr := by
  simp [State.sendFrame]

/-- Encoding an ASCII frame leaves the register of the other mode (log 4). -/
theorem State.sendFrame_crcReg_of_ascii (hmode : s.mode = .ascii) : (s.sendFrame n).crcReg = s.crcReg := by
  simp [State.sendFrame, State.afterEncode, hmode]

/-- Encoding an RTU frame leaves the register of the other mode (log 4). -/
theorem State.sendFrame_lrcAcc_of_rtu (hmode : s.mode = .rtu) : (s.sendFrame n).lrcAcc = s.lrcAcc := by
  simp [State.sendFrame, State.afterEncode, hmode]

/-- The staged frame ends at its own length. -/
theorem State.sendFrame_read_wb_of_ge {a : Nat} (ha : flen s.mode n ≤ a) :
    Memory.read (s.sendFrame n).wb a = Memory.read s.wb a := by
  rw [sendFrame_wb, Memory.read_store, if_neg (by simpa using ha)]

/-- Settles O14: of the five things a command can do, only a frame sent touches more than its named fields. -/
theorem commandsLeaveTheRestUnchanged : Obligations.CommandsLeaveTheRestUnchanged := by
  intro i s t h
  rcases exec_cases i s with ⟨k, -, he, -, -⟩ | ⟨m, b, rfl, -, -, -, he⟩ | ⟨n, hi, -, -, -, he⟩ |
    ⟨n, rfl, -, -, -, he⟩ | ⟨n, rfl, -, -, -, he⟩ <;> rw [he] at h <;> cases h
  · simp
  · simp
  · rcases hi with rfl | rfl <;> simp
  · obtain ⟨hparams, hdone, hmode, hidle, -, -⟩ := setup_eq_iff.1 (State.sendFrame_setup n s)
    refine ⟨hparams, by simp, by simp, by simp, by simp, by simp, by simp, nofun, ?_, nofun⟩
    rintro _ ⟨⟩
    exact ⟨hdone, hmode, hidle, State.sendFrame_crcReg_of_ascii, State.sendFrame_lrcAcc_of_rtu,
      fun a => State.sendFrame_read_wb_of_ge⟩
  · simp [State.awaitFrame]

end Sys2Proof.Machine
end

section
/-! PROOFS. The transport's answers: what ends a write, and what a received frame leaves (41_commands.md R139-R144,
43_rtu_codec.md R193). -/

namespace Sys2Proof.Machine

variable {s : State} {rest : List Input}

/-! Answers, by the outstanding call -/

theorem step_transport {a : TransportAnswer} (hok : s.params.Ok) (hr : s.refused = false)
    (hi : s.inputs = .transport a :: rest) : step s = .next ((s.withInputs rest).transportAnswer a) :=
  step_takeInput hok hr hi

theorem transportAnswer_write {bs : List Byte} {n ms cb : Nat} {r : CallbackResult}
    (hc : s.tcall = some (.write bs n ms)) (hcb : CallbackResult.ofCode cb = some r) :
    s.transportAnswer (.write cb) = s.writeAnswered r := by
  simp [State.transportAnswer, hc, hcb]

theorem transportAnswer_idle {n : Nat} (hc : s.tcall = some (.idle n)) :
    s.transportAnswer .idle = s.idleAnswered := by
  simp [State.transportAnswer, hc]

theorem transportAnswer_frame {bs : List Byte} {ms : Nat} (hc : s.tcall = some (.read bs.length ms)) :
    s.transportAnswer (.read 0 bs) = s.frameReceived bs := by
  simp [State.transportAnswer, hc, CallbackResult.ofCode]

/-- A write's answer that is not an RTU success ends the command (41_commands.md R140, R141). -/
theorem writeAnswered_ends {r : CallbackResult} (hlast : s.mode = .ascii ∨ r ≠ .success) :
    s.writeAnswered r = s.closeCall.endCall (mapCb r) := by
  rcases writeAnswered_cases r s with ⟨hmode, hr, -⟩ | ⟨-, h⟩
  · rcases hlast with hascii | hne
    · rw [hmode] at hascii; cases hascii
    · exact absurd hr hne
  · exact h

theorem writeAnswered_idles (hmode : s.mode = .rtu) :
    s.writeAnswered .success = s.closeCall.issue (.idle s.curFlen.toNat) .waitIdle := by
  simp [State.writeAnswered, hmode]

/-- Settles O16: in ASCII mode each of the three results ends the command with its translation. -/
theorem asciiWriteAnswerFinishes : Obligations.AsciiWriteAnswerFinishes := by
  intro s rest bs n ms cb hok hr hi hmode hc hcb
  obtain ⟨r, hcode, hresult⟩ : ∃ r, CallbackResult.ofCode cb = some r ∧
      mapCb r = if cb = 0 then .success else if cb = 1 then .timeout else .ioError := by
    interval_cases cb
    · exact ⟨.success, rfl, rfl⟩
    · exact ⟨.timeout, rfl, rfl⟩
    · exact ⟨.ioError, rfl, rfl⟩
  rw [step_transport hok hr hi, transportAnswer_write (s := s.withInputs rest) hc hcode,
    writeAnswered_ends (s := s.withInputs rest) (.inl hmode), hresult]
  rfl

/-- Settles O17: of the answers to an RTU write only Success goes on, with the idle call. -/
theorem rtuWriteIsFollowedByIdle : Obligations.RtuWriteIsFollowedByIdle := by
  intro s rest hok hr hmode
  refine ⟨fun bs n ms hc hi => ?_, fun bs n ms hc hi => ?_, fun bs n ms hc hi => ?_, fun n hc hi => ?_⟩ <;>
    rw [step_transport hok hr hi]
  · rw [transportAnswer_write (s := s.withInputs rest) (r := .success) hc rfl,
      writeAnswered_idles (s := s.withInputs rest) hmode]
    rfl
  · rw [transportAnswer_write (s := s.withInputs rest) (r := .timeout) hc rfl, writeAnswered_ends (.inr (by decide))]
    rfl
  · rw [transportAnswer_write (s := s.withInputs rest) (r := .ioError) hc rfl, writeAnswered_ends (.inr (by decide))]
    rfl
  · rw [transportAnswer_idle (s := s.withInputs rest) hc]
    rfl

/-! A received frame -/

@[simp] theorem State.conclude_inputs (n : Nat) (v : Verdict) (s : State) : (s.conclude n v).inputs = s.inputs := by
  cases v <;> rfl

@[simp] theorem State.conclude_m1 (n : Nat) (v : Verdict) (s : State) : (s.conclude n v).m1 = s.m1 := by
  cases v <;> rfl

@[simp] theorem State.frameReceived_inputs (bs : List Byte) (s : State) :
    (s.frameReceived bs).inputs = s.inputs := by
  simp [State.frameReceived]

@[simp] theorem State.frameReceived_m1 (bs : List Byte) (s : State) : (s.frameReceived bs).m1 = s.m1 := by
  simp [State.frameReceived]

/-- A frame that decodes to `q` ends with Success and `q` in PBUF (41_commands.md R142, R143). -/
theorem frameReceived_of_ok {bs q : List Byte} (hl : bs.length = s.curFlen.toNat)
    (hq : decodeFrame s.params.hexSentinel s.mode bs s.curN.toNat = .ok q) :
    (s.frameReceived bs).result = .success ∧ (s.frameReceived bs).pbuf = Memory.store s.pbuf 0 q := by
  rw [frameReceived_eq hl, hq]
  simp [State.conclude]

/-- A bad frame ends with Corrupted and no value in PBUF[0..CUR_N) (41_commands.md R144). -/
theorem frameReceived_of_bad {bs : List Byte} (hl : bs.length = s.curFlen.toNat)
    (hbad : decodeFrame s.params.hexSentinel s.mode bs s.curN.toNat = .bad) :
    (s.frameReceived bs).result = .corrupted ∧
      (s.frameReceived bs).pbuf = Memory.eraseRange s.pbuf 0 s.curN.toNat := by
  rw [frameReceived_eq hl, hbad]
  simp [State.conclude]

/-- In WAIT_READ a successful read of CUR_FLEN bytes is received. -/
theorem step_frame {f : List Byte} (h : s.Inv) (hr : s.refused = false) (hp : s.phase = .waitRead)
    (hi : s.inputs = .transport (.read 0 f) :: rest) (hl : f.length = s.curFlen.toNat) :
    step s = .next ((s.withInputs rest).frameReceived f) := by
  obtain ⟨-, hc⟩ := h.waitRead hp
  rw [← hl] at hc
  rw [step_transport h.paramsOk hr hi, transportAnswer_frame (s := s.withInputs rest) hc]

/-- Settles O19: the step receives the frame; its verdict decides RESULT and PBUF, and nothing else depends on it. -/
theorem receivedFrameIsDecodedAndDelivered : Obligations.ReceivedFrameIsDecodedAndDelivered := by
  intro s rest f h hr hp hi hl
  obtain ⟨hphase, htcall, -⟩ := frameReceived_ends f (s.withInputs rest)
  obtain ⟨-, hdone, hmode, hidle, hfault, hcode⟩ := setup_eq_iff.1 (State.frameReceived_setup f (s.withInputs rest))
  refine ⟨_, step_frame h hr hp hi hl, hphase, htcall, by simp, hmode, hidle, hdone, hfault, hcode, by simp,
    fun q hq => ?_, fun hbad => ?_, fun a ha => (h.withInputs rest).frameReceived_read_of_ge hp hl ha⟩
  · obtain ⟨⟨hlen, -⟩, -⟩ := h.waitRead hp
    have hqlen := decodeFrame_ok_length (hl.trans hlen) hq
    obtain ⟨hresult, hpbuf⟩ := frameReceived_of_ok (s := s.withInputs rest) hl hq
    refine ⟨hresult, hqlen, fun a ha => ?_⟩
    rw [hpbuf, Memory.read_store, if_pos (by omega), Nat.sub_zero]
  · obtain ⟨hresult, hpbuf⟩ := frameReceived_of_bad (s := s.withInputs rest) hl hbad
    refine ⟨hresult, fun a ha => ?_⟩
    rw [hpbuf, Memory.read_eraseRange]
    exact if_pos ⟨Nat.zero_le a, by simpa using ha⟩

end Sys2Proof.Machine
end

section
/-! PROOFS. From block to block: ANSWER_READ of a frame, from the command word to the payload in PBUF. -/

namespace Sys2Proof.Machine

variable {s t u r : State} {n : Nat} {rest : List Input}

theorem run_two (hfirst : step s = .next t) (hsecond : step t = .next u) :
    Host.Core.run Sys2Proof.core 2 s = .next u := by
  have h1 : Sys2Proof.core.step s = .next t := hfirst
  have h2 : Sys2Proof.core.step t = .next u := hsecond
  simp only [Host.Core.run, h1, h2]

/-- The word of ANSWER_READ: opcode 2 above the length (30_encoding.md R81). -/
theorem answerReadWord_eq (hn : n < 2 ^ Config.lenWidth) :
    0x20000000#32 ||| BitVec.ofNat 32 n = encode (.answerRead n) := by
  have hlow : BitVec.ofNat 32 n = 0#16 ++ BitVec.ofNat 16 n := by
    have h16 : n % 65536 = n := Nat.mod_eq_of_lt hn
    have h32 : n % 2 ^ 32 = n := Nat.mod_eq_of_lt (hn.trans (by decide))
    apply BitVec.eq_of_toNat_eq
    rw [BitVec.toNat_append, BitVec.toNat_ofNat, h32]
    simp [h16]
  calc 0x20000000#32 ||| BitVec.ofNat 32 n = (0x2000#16 ++ 0#16) ||| (0#16 ++ BitVec.ofNat 16 n) := by rw [hlow]; rfl
    _ = 0x2000#16 ++ BitVec.ofNat 16 n := by rw [BitVec.or_append, BitVec.or_zero, BitVec.zero_or]
    _ = encode (.answerRead n) := rfl

/-- A length whose frame fits WB fits the LEN field of every LEN_W (00_scope.md R9). -/
theorem lt_of_flen_le {p : Config.Params} {m : Mode} (hok : p.Ok) (hfit : flen m n ≤ p.wbCap) : n < 2 ^ p.lenW := by
  have hframe := flen_ge m n
  have hcap := hok.2.1
  omega

/-- The step that submits ANSWER_READ of a length whose frame fits. -/
theorem step_answerRead (h : r.Inv) (hr : r.refused = false) (hp : r.phase = .ready) (hdone : r.initDone = true)
    (hfit : flen r.mode n ≤ r.params.wbCap)
    (hi : r.inputs = .host (.write 0x000#9 32 (0x20000000#32 ||| BitVec.ofNat 32 n)) :: rest) :
    step r = .next ((r.withInputs rest).awaitFrame n) := by
  have hlen := lt_of_flen_le h.paramsOk hfit
  have hwf : n < 2 ^ Config.lenWidth := hlen.trans_le (Nat.pow_le_pow_right (by decide) h.paramsOk.2.2)
  have hd : decode (encode (.answerRead n)) = .ok (.answerRead n) := decodeEncodeRoundTrip _ hwf
  rw [answerReadWord_eq hwf] at hi
  have hexec : step r = exec (.answerRead n) (r.withInputs rest) :=
    (step_takeInput h.paramsOk hr hi).trans (acceptWord_of_fits (s := r.withInputs rest) hd (decide_eq_true hlen))
  rw [hexec, execAnswerRead_of_fits (s := r.withInputs rest) hp hdone hfit]

/-- ANSWER_READ answered with a frame of the right length: after two steps the block is READY again, and the verdict
on the frame decides RESULT and PBUF[0..n) (41_commands.md R142-R144). -/
theorem run_answerRead {bs : List Byte} (h : r.Inv) (hr : r.refused = false) (hp : r.phase = .ready)
    (hdone : r.initDone = true) (hfit : flen r.mode n ≤ r.params.wbCap) (hl : bs.length = flen r.mode n)
    (hi : r.inputs = .host (.write 0x000#9 32 (0x20000000#32 ||| BitVec.ofNat 32 n)) ::
      .transport (.read 0 bs) :: rest) :
    ∃ u, Host.Core.run Sys2Proof.core 2 r = .next u ∧ u.phase = .ready ∧
      (∀ q, decodeFrame r.params.hexSentinel r.mode bs n = .ok q →
        u.result = .success ∧ ∀ a, a < n → Memory.read u.pbuf a = q[a]?) ∧
      (decodeFrame r.params.hexSentinel r.mode bs n = .bad →
        u.result = .corrupted ∧ ∀ a, a < n → Memory.read u.pbuf a = none) ∧
      ∀ a, n ≤ a → Memory.read u.pbuf a = Memory.read r.pbuf a := by
  have hfirst := step_answerRead h hr hp hdone hfit hi
  have hinv := stepKeepsInvariant r _ h hfirst
  obtain ⟨hcurN, hcurFlen⟩ := latch_exact hfit (wbCap_le h.paramsOk)
  obtain ⟨u, hsecond, hphase, -, -, -, -, -, -, -, -, hok, hbad, hrest⟩ :=
    receivedFrameIsDecodedAndDelivered _ rest bs hinv hr rfl rfl (hl.trans hcurFlen.symm)
  have hn : ((r.withInputs (.transport (.read 0 bs) :: rest)).awaitFrame n).curN.toNat = n := hcurN
  rw [hn] at hok hbad hrest
  refine ⟨u, run_two hfirst hsecond, hphase, fun q hq => ?_, hbad, hrest⟩
  obtain ⟨hresult, -, hread⟩ := hok q hq
  exact ⟨hresult, hread⟩

/-- Settles O58: the frame issued is the encoding of the payload, which the receiving block decodes. -/
theorem frameSentIsPayloadReceived : Obligations.FrameSentIsPayloadReceived := by
  intro s r t p rest hp hdone hfit hwritten hexec hinv hr hrp hrdone hmode hrfit
  rw [execRequestWrite_of_written hp hdone hfit hwritten] at hexec
  cases hexec
  refine ⟨encodeFrame s.mode p, flen s.mode p.length, s.params.busTimeoutMs, rfl, fun hi => ?_⟩
  obtain ⟨u, hrun, hphase, hok, -, hrest⟩ :=
    run_answerRead hinv hr hrp hrdone hrfit (by rw [encodeFrame_length, hmode]) hi
  obtain ⟨hresult, hread⟩ := hok p (by rw [hmode]; exact decodeFrame_encodeFrame _ _ p)
  exact ⟨u, hrun, hphase, hresult, hread, hrest⟩

end Sys2Proof.Machine
end

section
/-! PROOFS. The ASCII codec: the bytes of a frame, the frames the decoder accepts, and that no verdict depends on the
sentinel (42_ascii_codec.md R161-R174). -/

namespace Sys2Proof.Machine

/-- Settles O31: the round trip, for every sentinel. -/
theorem asciiRoundTrip : Obligations.AsciiRoundTrip := asciiDecode_asciiEncode

/-! The bytes of a frame -/

theorem exists_hexDigit_of_mem_hexPair {b c : Byte} (h : c ∈ hexPair b) : ∃ v, c = hexDigit v := by
  rcases List.mem_pair.1 h with rfl | rfl
  · exact ⟨_, rfl⟩
  · exact ⟨_, rfl⟩

theorem exists_hexDigit_of_mem_hexPairs {p : List Byte} {c : Byte} (h : c ∈ hexPairs p) : ∃ v, c = hexDigit v := by
  induction p with
  | nil => cases h
  | cons b p ih =>
    rcases List.mem_append.1 h with hb | hp
    · exact exists_hexDigit_of_mem_hexPair hb
    · exact ih hp

/-- The bytes between the colon and CR are the digits of the payload and of the LRC. -/
theorem asciiEncode_getElem?_succ {p : List Byte} {j : Nat} (hj : j < 2 * p.length + 2) :
    (asciiEncode p)[j + 1]? = (hexPairs p ++ hexPair (lrc p))[j]? := by
  have hcut : asciiEncode p = colon :: (hexPairs p ++ hexPair (lrc p) ++ [cr, lf]) := by simp [asciiEncode]
  rw [hcut, List.getElem?_cons_succ, List.getElem?_append_left (by simpa using hj)]

/-- Settles O29: each of these bytes is the digit of some nibble. -/
theorem asciiFrameHoldsOnlyUppercaseDigits : Obligations.AsciiFrameHoldsOnlyUppercaseDigits := by
  intro p i c hpos hi hc
  obtain ⟨j, rfl⟩ := Nat.exists_eq_add_of_le' hpos
  rw [asciiEncode_getElem?_succ (by omega)] at hc
  obtain ⟨v, rfl⟩ : ∃ v, c = hexDigit v := by
    rcases List.mem_append.1 (List.mem_of_getElem? hc) with hpayload | hlrc
    · exact exists_hexDigit_of_mem_hexPairs hpayload
    · exact exists_hexDigit_of_mem_hexPair hlrc
  exact hexDigit_range v

/-! The frames the decoder accepts -/

/-- The checks behind an Ok (42_ascii_codec.md R170, R171). -/
theorem checks_of_asciiDecode_ok {x : Byte} {f q : List Byte} {n : Nat} (h : asciiDecode x f n = .ok q) :
    asciiFramed f n = true ∧ asciiHexErr x f n = false ∧ asciiReceivedLrc x f n = [lrc q] ∧ asciiPayload x f n = q := by
  unfold asciiDecode at h
  split at h
  · next hframed =>
    split at h
    · next hchecks =>
      obtain ⟨herr, hlrc⟩ := hchecks
      cases h
      exact ⟨hframed, herr, hlrc, rfl⟩
    · cases h
  · cases h

/-- A framed `f` of the length of R165 starts with the colon and ends with CR and LF (42_ascii_codec.md R167). -/
theorem asciiFramed_ends {f : List Byte} {n : Nat} (hl : f.length = 2 * n + 5) (h : asciiFramed f n = true) :
    f = colon :: f.drop 1 ∧ f.drop (2 * n + 3) = [cr, lf] := by
  simp only [asciiFramed, Bool.and_eq_true, beq_iff_eq, List.getElem?_eq_some_iff] at h
  obtain ⟨⟨⟨hpos, hcolon⟩, hi, hcr⟩, hj, hlf⟩ := h
  have hend : f.drop (2 * n + 3 + 1 + 1) = [] := List.drop_eq_nil_of_le hl.le
  exact ⟨by rw [← hcolon, ← List.drop_eq_getElem_cons hpos, List.drop_zero],
    by rw [List.drop_eq_getElem_cons hi, List.drop_eq_getElem_cons hj, hend, hcr, hlf]⟩

/-- Without HEX_ERR the bytes after the first are the digits of the payload and of the received LRC
(42_ascii_codec.md R169-R171). -/
theorem drop_one_of_asciiHexErr {x : Byte} {f : List Byte} {n : Nat} (h : asciiHexErr x f n = false) :
    f.drop 1 = hexPairs (asciiPayload x f n) ++ hexPairs (asciiReceivedLrc x f n) ++ f.drop (2 * n + 3) := by
  obtain ⟨hpayload, hlrc⟩ := Bool.or_eq_false_iff.1 h
  have hafter : f.drop (2 * n + 1) = hexPairs (asciiReceivedLrc x f n) ++ f.drop (2 * n + 3) := by
    have hpair := (hexPairs_of_hexBytes hlrc).1
    rwa [List.drop_drop] at hpair
  calc f.drop 1 = hexPairs (asciiPayload x f n) ++ (f.drop 1).drop (2 * n) := (hexPairs_of_hexBytes hpayload).1
    _ = hexPairs (asciiPayload x f n) ++ f.drop (2 * n + 1) := by rw [List.drop_drop, Nat.add_comm]
    _ = _ := by rw [hafter, List.append_assoc]

theorem eq_asciiEncode_of_asciiDecode {x : Byte} {f q : List Byte} {n : Nat} (hl : f.length = 2 * n + 5)
    (h : asciiDecode x f n = .ok q) : f = asciiEncode q := by
  obtain ⟨hframed, herr, hlrc, hq⟩ := checks_of_asciiDecode_ok h
  obtain ⟨hhead, htail⟩ := asciiFramed_ends hl hframed
  have hdigits := drop_one_of_asciiHexErr herr
  rw [hq, hlrc, htail] at hdigits
  rw [hhead, hdigits]
  simp [asciiEncode, hexPairs]

/-- Settles O30: an accepted frame is rebuilt from its colon, its digit pairs and its CR and LF; the converse is the
round trip. -/
theorem asciiDecoderAcceptsExactlyEncodedFrames : Obligations.AsciiDecoderAcceptsExactlyEncodedFrames := by
  intro x f q n hl
  constructor
  · intro h
    have hf := eq_asciiEncode_of_asciiDecode hl h
    rw [hf, asciiEncode_length] at hl
    exact ⟨by omega, hf⟩
  · rintro ⟨rfl, rfl⟩
    exact asciiDecode_asciiEncode x q

/-! The sentinel -/

theorem asciiHexErr_sentinel (x y : Byte) (f : List Byte) (n : Nat) : asciiHexErr x f n = asciiHexErr y f n := by
  rw [asciiHexErr, (hexBytes_sentinel x y n _).1, (hexBytes_sentinel x y 1 _).1, asciiHexErr]

/-- What is decoded without HEX_ERR holds no sentinel. -/
theorem asciiBytes_sentinel {x : Byte} {f : List Byte} {n : Nat} (y : Byte) (h : asciiHexErr x f n = false) :
    asciiPayload x f n = asciiPayload y f n ∧ asciiReceivedLrc x f n = asciiReceivedLrc y f n := by
  obtain ⟨hpayload, hlrc⟩ := Bool.or_eq_false_iff.1 h
  exact ⟨congrArg Prod.fst ((hexBytes_sentinel x y n _).2 hpayload),
    congrArg Prod.fst ((hexBytes_sentinel x y 1 _).2 hlrc)⟩

/-- Settles O33: a sentinel in the decoded bytes sets HEX_ERR, and then the verdict is Bad under both. -/
theorem sentinelIsUnobservable : Obligations.SentinelIsUnobservable := by
  intro x y f n
  cases herr : asciiHexErr x f n with
  | true => simp [asciiDecode, ← asciiHexErr_sentinel x y, herr]
  | false =>
    obtain ⟨hpayload, hlrc⟩ := asciiBytes_sentinel y herr
    rw [asciiDecode, asciiHexErr_sentinel x y, hpayload, hlrc, asciiDecode]

end Sys2Proof.Machine
end

section
/-! PROOFS. Frames with a changed byte: two frames of payloads of one length differ in more than one byte, so that every
single-bit flip is detected, in both modes (42_ascii_codec.md R175, 43_rtu_codec.md R199). -/

namespace Sys2Proof.Machine

variable {p q : List Byte} {k : Nat}

/-! Frames that agree but for one byte -/

/-- Two payloads of one length that differ at most at `i` are one, if a checksum that sees every changed byte does not
tell them apart. -/
theorem eq_of_checksum_eq {α : Type} {check : List Byte → α} {i : Nat}
    (hcheck : ∀ {p : List Byte} {i : Nat} {a b : Byte}, p[i]? = some a → a ≠ b → check (p.set i b) ≠ check p)
    (hl : p.length = q.length) (hrest : ∀ j (hp : j < p.length) (hq : j < q.length), j ≠ i → p[j] = q[j])
    (hsame : i < p.length → check p = check q) : p = q := by
  refine List.ext_getElem hl fun j hp hq => ?_
  by_cases hj : j = i
  · subst hj
    by_contra hne
    have hset : p.set j q[j] = q := List.ext_getElem (by simpa using hl) fun m hm hmq => by
      rw [List.getElem_set]
      split
      · next h => subst h; rfl
      · next h => exact hrest m (by simpa using hm) hmq (Ne.symm h)
    exact hcheck (List.getElem?_eq_getElem hp) hne (by rw [hset, hsame hp])
  · exact hrest j hp hq hj

theorem eq_of_hexDigits {b c : Byte} (hhigh : hexDigit (b.extractLsb' 4 4) = hexDigit (c.extractLsb' 4 4))
    (hlow : hexDigit (b.extractLsb' 0 4) = hexDigit (c.extractLsb' 0 4)) : b = c := by
  have hinj {v w : BitVec 4} (h : hexDigit v = hexDigit w) : v = w := by
    simpa [hexVal_hexDigit] using congrArg hexVal h
  rw [← nibbles_append b, ← nibbles_append c, hinj hhigh, hinj hlow]

theorem lrc_set_ne {i : Nat} {a b : Byte} (ha : p[i]? = some a) (hab : a ≠ b) : lrc (p.set i b) ≠ lrc p := by
  obtain ⟨-, -, -, -, -, -, -, -, hset⟩ := lrcLaws
  exact hset p i b (by simp [ha]) (by simpa [ha] using hab)

theorem crc16_set_ne {i : Nat} {a b : Byte} (ha : p[i]? = some a) (hab : a ≠ b) : crc16 (p.set i b) ≠ crc16 p :=
  crcFrom_set_ne ha hab _

/-- The digit pair at `1 + 2 * i` is that of byte `i`, so the payloads agree but for byte `(k - 1) / 2`; if that is a
byte of theirs, the LRC's digits agree. -/
theorem eq_of_asciiEncode_agree (hl : p.length = q.length)
    (h : ∀ j, j ≠ k → (asciiEncode p)[j]? = (asciiEncode q)[j]?) : p = q := by
  obtain ⟨-, -, hdigitsp, hhighp, hlowp, -⟩ := asciiFrameLayout.2 p
  obtain ⟨-, -, hdigitsq, hhighq, hlowq, -⟩ := asciiFrameLayout.2 q
  refine eq_of_checksum_eq (i := (k - 1) / 2) lrc_set_ne hl (fun j hp hq hj => ?_) (fun hk => ?_)
  · obtain ⟨hhigh, hlow⟩ := hdigitsp j p[j] (List.getElem?_eq_getElem hp)
    obtain ⟨hhigh', hlow'⟩ := hdigitsq j q[j] (List.getElem?_eq_getElem hq)
    rw [h _ (by omega)] at hhigh hlow
    exact eq_of_hexDigits (Option.some.inj (hhigh.symm.trans hhigh')) (Option.some.inj (hlow.symm.trans hlow'))
  · rw [h _ (by omega), hl] at hhighp hlowp
    exact eq_of_hexDigits (Option.some.inj (hhighp.symm.trans hhighq)) (Option.some.inj (hlowp.symm.trans hlowq))

/-- The payloads agree but for byte `k`; if that is a byte of theirs, the two CRC bytes agree. -/
theorem eq_of_rtuEncode_agree (hl : p.length = q.length)
    (h : ∀ j, j ≠ k → (rtuEncode p)[j]? = (rtuEncode q)[j]?) : p = q := by
  obtain ⟨-, hbytesp, hlop, hhip⟩ := rtuFrameLayout.2 p
  obtain ⟨-, hbytesq, hloq, hhiq⟩ := rtuFrameLayout.2 q
  refine eq_of_checksum_eq (i := k) crc16_set_ne hl (fun j hp hq hj => ?_) (fun hk => ?_)
  · have hbyte : p[j]? = q[j]? := by rw [← hbytesp j hp, ← hbytesq j hq, h j hj]
    simpa [hp, hq] using hbyte
  · rw [h _ (by omega), hl] at hlop hhip
    have hcrc : crcBytes (crc16 p) = crcBytes (crc16 q) := by
      rw [crcBytes, Option.some.inj (hlop.symm.trans hloq), Option.some.inj (hhip.symm.trans hhiq), crcBytes]
    have hreceived := receivedCrc_crcBytes (crc16 p) []
    rw [hcrc, receivedCrc_crcBytes] at hreceived
    exact (Option.some.inj hreceived).symm

theorem eq_of_encodeFrame_agree {m : Mode} (hl : p.length = q.length)
    (h : ∀ j, j ≠ k → (encodeFrame m p)[j]? = (encodeFrame m q)[j]?) : p = q := by
  cases m with
  | ascii => exact eq_of_asciiEncode_agree hl h
  | rtu => exact eq_of_rtuEncode_agree hl h

/-! Frames with one changed byte -/

theorem eq_rtuEncode_of_rtuDecode {f : List Byte} {n : Nat} (hl : f.length = n + 2) (h : rtuDecode f n = .ok q) :
    f = rtuEncode q := by
  unfold rtuDecode at h
  split at h
  · next hcrc =>
    cases h
    obtain ⟨lo, hi, htail⟩ := List.length_eq_two.1 (show (f.drop n).length = 2 by rw [List.length_drop]; omega)
    rw [htail] at hcrc
    rw [rtuEncode, crcBytes_of_receivedCrc hcrc, ← htail, List.take_append_drop]
  · cases h

/-- A frame that decodes is the encoding of its payload (42_ascii_codec.md R171, 43_rtu_codec.md R195). -/
theorem eq_encodeFrame_of_decodeFrame {x : Byte} {m : Mode} {f : List Byte} {n : Nat} (hl : f.length = flen m n)
    (h : decodeFrame x m f n = .ok q) : f = encodeFrame m q := by
  cases m with
  | ascii => exact eq_asciiEncode_of_asciiDecode hl h
  | rtu => exact eq_rtuEncode_of_rtuDecode hl h

/-- If the changed frame decoded, it would be the frame of a payload that agrees with `p`'s frame but for one byte: that
payload is `p`, and nothing was changed. -/
theorem decodeFrame_set_of_ne {m : Mode} {c d : Byte} (x : Byte) (hc : (encodeFrame m p)[k]? = some c) (hne : d ≠ c) :
    decodeFrame x m ((encodeFrame m p).set k d) p.length = .bad := by
  cases hv : decodeFrame x m ((encodeFrame m p).set k d) p.length with
  | bad => rfl
  | ok q =>
    have hl : ((encodeFrame m p).set k d).length = flen m p.length := by simp
    have hframe := eq_encodeFrame_of_decodeFrame hl hv
    have hpq : p = q := eq_of_encodeFrame_agree (m := m) (k := k) (decodeFrame_ok_length hl hv).symm fun j hj => by
      rw [← hframe, List.getElem?_set_ne (Ne.symm hj)]
    obtain ⟨hk, rfl⟩ := List.getElem?_eq_some_iff.1 hc
    subst hpq
    have hd : ((encodeFrame m p).set k d)[k]? = (encodeFrame m p)[k]? := by rw [hframe]
    rw [List.getElem?_set_self hk, hc] at hd
    exact absurd (Option.some.inj hd) hne

theorem xor_bit_ne {j : Nat} (hj : j < 8) (c : Byte) : c ^^^ (1#8 <<< j) ≠ c := by
  intro h
  have hbit := congrArg (fun b => b.getLsbD j) h
  simp [hj] at hbit

/-- A frame with one bit flipped is Bad, in both modes. -/
theorem decodeFrame_flip {m : Mode} {j : Nat} {c : Byte} (x : Byte) (hj : j < 8) (hc : (encodeFrame m p)[k]? = some c) :
    decodeFrame x m ((encodeFrame m p).set k (c ^^^ (1#8 <<< j))) p.length = .bad :=
  decodeFrame_set_of_ne x hc (xor_bit_ne hj c)

/-- Settles O32: the ASCII case of `decodeFrame_flip`. -/
theorem asciiDetectsEverySingleBitFlip : Obligations.AsciiDetectsEverySingleBitFlip :=
  fun x _ _ _ _ hj hc => decodeFrame_flip (m := .ascii) x hj hc

/-- Settles O59: the frame received is the frame issued with one bit flipped, which the receiving block's decoder
rejects. -/
theorem flippedFrameIsCorrupted : Obligations.FlippedFrameIsCorrupted := by
  intro s r t p bs n ms k j c rest hp hdone hfit hwritten hexec htcall hj hc hinv hr hrp hrdone hmode hrfit hi
  rw [execRequestWrite_of_written hp hdone hfit hwritten] at hexec
  cases hexec
  cases htcall
  rw [← hmode] at hc hi
  obtain ⟨u, hrun, hphase, -, hbad, -⟩ := run_answerRead hinv hr hrp hrdone hrfit (by simp) hi
  obtain ⟨hresult, hread⟩ := hbad (decodeFrame_flip _ hj hc)
  exact ⟨u, hrun, hphase, hresult, hread⟩

end Sys2Proof.Machine
end

section
/-! PROOFS. The RTU decoder: it accepts exactly the encoder's frames (43_rtu_codec.md R195, R198), and no frame with one
bit flipped (R199). -/

namespace Sys2Proof.Machine

/-- Settles O35: an accepted frame ends in the CRC of its payload, and the frame of a payload decodes to it. -/
theorem rtuDecoderAcceptsExactlyEncodedFrames : Obligations.RtuDecoderAcceptsExactlyEncodedFrames := by
  intro f q n hl
  constructor
  · intro h
    have hf : f = rtuEncode q := eq_rtuEncode_of_rtuDecode hl h
    rw [hf, rtuEncode_length] at hl
    exact ⟨Nat.add_right_cancel hl, hf⟩
  · rintro ⟨rfl, rfl⟩
    exact rtuDecode_rtuEncode q

/-- Settles O36: the RTU case of `decodeFrame_flip`, where the sentinel is not used. -/
theorem rtuDetectsEverySingleBitFlip : Obligations.RtuDetectsEverySingleBitFlip :=
  fun _ _ _ _ hj hc => decodeFrame_flip (m := .rtu) 0x00#8 hj hc

end Sys2Proof.Machine
end

section
/-! PROOFS. The exceptions family: when a step from a clean state is clean (60_exceptions.md R231). A state stays clean
exactly when the outside agent keeps its duties; each operation, command and port has its own share of that. -/

namespace Sys2Proof.Machine

variable {s t : State}

/-! What the operations do to a clean state -/

theorem State.clean_iff : s.clean = true ↔ s.fault = false ∧ s.m1 = false ∧ s.refused = false ∧ s.params.Ok := by
  simp [State.clean, and_assoc]

/-- Only the setup, M1 and the mark of a refusal matter. -/
theorem clean_congr (hs : t.setup = s.setup) (hm : t.m1 = s.m1) (hr : t.refused = s.refused) : t.clean = s.clean := by
  obtain ⟨hparams, -, -, -, hfault, -⟩ := setup_eq_iff.1 hs
  simp only [State.clean, hparams, hfault, hm, hr]

@[simp] theorem State.raiseFault_clean (k : FaultCode) (s : State) : (s.raiseFault k).clean = false := rfl

@[simp] theorem State.markRefused_clean (s : State) : s.markRefused.clean = false := by simp [State.clean]

@[simp] theorem State.recordM1_true_clean (s : State) : (s.recordM1 true).clean = false := by simp [State.clean]

@[simp] theorem State.withInputs_clean (is : List Input) (s : State) : (s.withInputs is).clean = s.clean := rfl

@[simp] theorem State.respond_clean (d : Word) (s : State) : (s.respond d).clean = s.clean := rfl

@[simp] theorem State.draw_clean (j : Nat) (s : State) : (s.draw j).clean = s.clean := rfl

@[simp] theorem State.writePbuf_clean (i : Nat) (b : Byte) (s : State) : (s.writePbuf i b).clean = s.clean := rfl

@[simp] theorem State.configure_clean (m : Mode) (b : Bool) (s : State) : (s.configure m b).clean = s.clean := rfl

@[simp] theorem State.finish_clean (res : ProtocolResult) (s : State) : (s.finish res).clean = s.clean := rfl

@[simp] theorem State.awaitFrame_clean (n : Nat) (s : State) : (s.awaitFrame n).clean = s.clean := rfl

@[simp] theorem State.idleAnswered_clean (s : State) : s.idleAnswered.clean = s.clean := rfl

@[simp] theorem State.readFailed_clean (r : CallbackResult) (s : State) : (s.readFailed r).clean = s.clean := rfl

@[simp] theorem State.writeAnswered_clean (r : CallbackResult) (s : State) : (s.writeAnswered r).clean = s.clean := by
  rcases writeAnswered_cases r s with ⟨-, -, h⟩ | ⟨-, h⟩ <;> rw [h] <;> rfl

@[simp] theorem State.frameReceived_clean (bs : List Byte) (s : State) : (s.frameReceived bs).clean = s.clean :=
  clean_congr (State.frameReceived_setup bs s) (State.frameReceived_m1 bs s) (State.frameReceived_refused bs s)

/-- A frame sent is clean if every cell of its payload holds a value (20_memory.md R53). -/
theorem State.sendFrame_clean_iff (hc : s.clean = true) (n : Nat) :
    (s.sendFrame n).clean = true ↔ Memory.missing s.pbuf 0 n = 0 := by
  obtain ⟨hfault, hm1, hr, hok⟩ := State.clean_iff.1 hc
  obtain ⟨hparams, -, -, -, hfault', -⟩ := setup_eq_iff.1 (State.sendFrame_setup n s)
  rw [State.clean_iff, hparams, hfault', State.sendFrame_m1, State.sendFrame_refused]
  simpa [hfault, hm1, hr] using fun _ => hok

/-! Commands -/

theorem mayBeSubmitted_init {m : Mode} {b : Bool} : mayBeSubmitted (.init m b) s = true ↔
    s.phase = .ready ∧ s.initDone = false ∧ (m = .rtu → b = true) := by
  cases m <;> simp [mayBeSubmitted, s.busy_false_iff, and_assoc]

theorem mayBeSubmitted_requestWrite {n : Nat} : mayBeSubmitted (.requestWrite n) s = true ↔
    s.phase = .ready ∧ s.initDone = true ∧ (s.params.wbCap < flen s.mode n ∨ Memory.missing s.pbuf 0 n = 0) := by
  simp [mayBeSubmitted, s.busy_false_iff, and_assoc]

theorem mayBeSubmitted_answerRead {n : Nat} : mayBeSubmitted (.answerRead n) s = true ↔
    s.phase = .ready ∧ s.initDone = true := by
  simp [mayBeSubmitted, s.busy_false_iff]

/-- A command runs clean exactly when the host may submit it (70_reset_and_hazards.md R242-R246). -/
theorem exec_clean (hc : s.clean = true) (i : Instr) :
    ∃ t, exec i s = .next t ∧ (t.clean = true ↔ mayBeSubmitted i s = true) := by
  rcases exec_cases i s with ⟨k, -, he, hinit, htransfer⟩ | ⟨m, b, rfl, hp, hn, hm, he⟩ |
    ⟨n, hi, hp, hdone, hlong, he⟩ | ⟨n, rfl, hp, hdone, hfit, he⟩ | ⟨n, rfl, hp, hdone, -, he⟩ <;> refine ⟨_, he, ?_⟩
  · have hno : mayBeSubmitted i s ≠ true := by
      cases i with
      | init m b =>
        rw [Ne, mayBeSubmitted_init]
        rintro ⟨hp, hn, hm⟩
        rcases hinit hp m b rfl with hdone | ⟨rfl, rfl⟩
        · rw [hn] at hdone; cases hdone
        · cases hm rfl
      | requestWrite n =>
        rw [Ne, mayBeSubmitted_requestWrite]
        rintro ⟨hp, hdone, -⟩
        rw [htransfer hp nofun] at hdone; cases hdone
      | answerRead n =>
        rw [Ne, mayBeSubmitted_answerRead]
        rintro ⟨hp, hdone⟩
        rw [htransfer hp nofun] at hdone; cases hdone
    simp [hno]
  · simpa [hc, mayBeSubmitted_init, hp, hn] using hm
  · rcases hi with rfl | rfl
    · simp [hc, mayBeSubmitted_requestWrite, hp, hdone, hlong]
    · simp [hc, mayBeSubmitted_answerRead, hp, hdone]
  · simp [State.sendFrame_clean_iff hc, mayBeSubmitted_requestWrite, hp, hdone, Nat.not_lt.2 hfit]
  · simp [hc, mayBeSubmitted_answerRead, hp, hdone]

theorem acceptWord_clean (hc : s.clean = true) (w : Word) :
    ∃ t, acceptWord w s = .next t ∧ (t.clean = true ↔ wordMayBeSubmitted w s = true) := by
  rcases acceptWord_cases w s with ⟨e, hd, he⟩ | ⟨i, hd, he⟩
  · exact ⟨_, he, by simp [wordMayBeSubmitted, hd]⟩
  · simpa only [he, wordMayBeSubmitted, hd] using exec_clean hc i

/-! The host's accesses -/

@[simp] theorem State.badPbufWrite_clean (s : State) : s.badPbufWrite.clean = false := by
  by_cases hp : s.phase = .ready
  · rw [badPbufWrite_of_ready hp, State.raiseFault_clean]
  · obtain ⟨k, -, he⟩ := badPbufWrite_of_busy hp
    rw [he, State.draw_clean, State.raiseFault_clean]

/-- A host write is clean exactly when it keeps to the register map and the hazards, by its target. -/
theorem hostWrite_clean (hc : s.clean = true) (offset : BitVec 9) (width : Nat) (data : Word) :
    ∃ t, hostWrite offset width data s = .next t ∧
      (t.clean = true ↔ hostWriteAllowed offset width data s = true) := by
  cases ht : target s.params.pbufCap offset with
  | cmd =>
    by_cases h : offset = 0x000#9 ∧ width = 32
    · obtain ⟨rfl, rfl⟩ := h
      exact acceptWord_clean hc data
    · refine ⟨_, hostWrite_cmd_of_bad ht h, ?_⟩
      simpa [hostWriteAllowed, ht] using fun ho hw => absurd ⟨ho, hw⟩ h
  | status => exact ⟨_, hostWrite_status ht, by simp [hostWriteAllowed, ht]⟩
  | reserved => exact ⟨_, hostWrite_reserved ht, by simp [hostWriteAllowed, ht]⟩
  | pbuf i =>
    by_cases hw : width = 8
    · subst hw
      by_cases hp : s.phase = .ready
      · exact ⟨_, hostWrite_pbuf_of_ready ht hp, by simp [hostWriteAllowed, ht, s.busy_false_iff.2 hp, hc]⟩
      · exact ⟨_, hostWrite_pbuf_of_busy ht hp, by simp [hostWriteAllowed, ht, s.busy_iff.2 hp]⟩
    · exact ⟨_, hostWrite_pbuf_of_bad ht hw, by simp [hostWriteAllowed, ht, hw]⟩

@[simp] theorem State.faultRead_clean (k : FaultCode) (s : State) : (s.faultRead k).clean = false := rfl

/-- A read of a cell is clean while BUSY (log 7), or if the cell holds a value (10_state.md R43). -/
theorem State.readPbuf_clean (hc : s.clean = true) (i : Nat) :
    (s.readPbuf i).clean = (s.busy || (Memory.read s.pbuf i).isSome) := by
  by_cases hp : s.phase = .ready
  · cases hb : Memory.read s.pbuf i with
    | some b => simp [readPbuf_of_written hp hb, hc]
    | none => simp [readPbuf_of_empty hp hb, s.busy_false_iff.2 hp]
  · simp [readPbuf_of_busy hp, s.busy_iff.2 hp, hc]

/-- A host read is clean exactly when it keeps to the register map and reads no empty cell, by its target. -/
theorem hostRead_clean (hc : s.clean = true) (offset : BitVec 9) (width : Nat) :
    (hostRead offset width s).clean = hostReadAllowed offset width s := by
  cases ht : target s.params.pbufCap offset with
  | cmd =>
    by_cases h : offset = 0x000#9 ∧ width = 32
    · obtain ⟨rfl, rfl⟩ := h
      simp [hostRead, hostReadAllowed, hc]
    · rw [hostRead_cmd_of_bad ht h, State.faultRead_clean]
      simpa [hostReadAllowed, ht] using h
  | status =>
    by_cases h : offset = 0x004#9 ∧ width = 32
    · obtain ⟨rfl, rfl⟩ := h
      simp [hostRead, hostReadAllowed, hc]
    · rw [hostRead_status_of_bad ht h, State.faultRead_clean]
      simpa [hostReadAllowed, ht] using h
  | reserved => rw [hostRead_reserved ht, State.faultRead_clean, hostReadAllowed, ht]
  | pbuf i =>
    by_cases hw : width = 8
    · simp [hostRead, hostReadAllowed, ht, hw, State.readPbuf_clean hc]
    · simp [hostRead_pbuf_of_bad ht hw, hostReadAllowed, ht, hw]

/-! The transport and the platform -/

/-- An answer is clean exactly when a call is outstanding that accepts it (20_memory.md R66). -/
theorem transportAnswer_clean (hc : s.clean = true) (a : TransportAnswer) :
    (s.transportAnswer a).clean = (Input.transport a).obeys s := by
  rcases transportAnswer_cases a s with ⟨bs, n, ms, cb, r, hcall, rfl, hcb, he⟩ | ⟨n, hcall, rfl, he⟩ |
    ⟨n, ms, cb, bs, hcall, rfl, hcb, hl, he⟩ | ⟨n, ms, cb, bs, r, hcall, rfl, hcb, hr, he⟩ | ⟨hrejected, he⟩ <;> rw [he]
  · simp [Input.obeys, hcall, TransportCall.accepts, hcb, hc]
  · simp [Input.obeys, hcall, TransportCall.accepts, hc]
  · simp [Input.obeys, hcall, TransportCall.accepts, hcb, hl, hc]
  · have hz : cb ≠ 0 := fun hz => hr (Option.some.inj (hcb.symm.trans (ofCode_eq_success.2 hz)))
    simp [Input.obeys, hcall, TransportCall.accepts, hcb, hz, hc]
  · cases hcall : s.tcall with
    | none => simp [Input.obeys, hcall]
    | some c => simp [Input.obeys, hcall, hrejected c hcall]

/-- A reset clears what was recorded; while BUSY it is refused (70_reset_and_hazards.md R240). -/
theorem State.takeReset_clean (hc : s.clean = true) : s.takeReset.clean = !s.busy := by
  obtain ⟨-, -, -, hok⟩ := State.clean_iff.1 hc
  unfold State.takeReset
  cases s.busy
  · exact decide_eq_true hok
  · simp

/-- From a clean state every input is clean exactly when it obeys. -/
theorem takeInput_clean (hc : s.clean = true) (e : Input) :
    ∃ t, takeInput e s = .next t ∧ (t.clean = true ↔ e.obeys s = true) := by
  match e with
  | .host (.write offset width data) => exact hostWrite_clean hc offset width data
  | .host (.read offset width) => exact ⟨_, rfl, by rw [hostRead_clean hc]; rfl⟩
  | .transport a => exact ⟨_, rfl, by rw [transportAnswer_clean hc]⟩
  | .reset => exact ⟨_, rfl, by rw [State.takeReset_clean hc]; rfl⟩

/-- The duties speak of no input still to come. -/
theorem obeys_withInputs (e : Input) (is : List Input) (s : State) : e.obeys (s.withInputs is) = e.obeys s := by
  match e with
  | .host (.write _ _ _) => rfl
  | .host (.read _ _) => rfl
  | .transport _ => rfl
  | .reset => rfl

/-- Settles O57: the step takes the input, in a state that is clean as it was; the invariant is not needed, since a
clean state has good parameters and no mark. -/
theorem dutiesCharacteriseCleanSteps : Obligations.DutiesCharacteriseCleanSteps := by
  intro s e rest _ hc hi
  obtain ⟨-, -, hr, hok⟩ := State.clean_iff.1 hc
  rw [step_takeInput hok hr hi, ← obeys_withInputs e rest]
  exact takeInput_clean (s := s.withInputs rest) hc e

end Sys2Proof.Machine
end

section
/-! PROOFS. The exceptions family: what a recorded fault leaves alone (60_exceptions.md R215), and that the transport's
answers end a command, failed ones at once (R213, R230). -/

namespace Sys2Proof.Machine

variable {s t : State}

/-! The first fault -/

/-- The only way an input sets FAULT is to raise a fault, and all that comes with it is a draw or a read's 0. -/
theorem takeInput_sets_fault {e : Input} (h : takeInput e s = .next t) (hs : s.fault = false) (ht : t.fault = true) :
    ∃ k j, k ≠ .none ∧ (t = (s.raiseFault k).draw j ∨ t = (s.raiseFault k).respond 0#32) := by
  rcases takeInput_cases h with ⟨-, hraised⟩ | hother
  · exact hraised
  have hclear : t.fault = false := by
    rcases hother with ⟨o, w, d, j, due, -, -, rfl⟩ | ⟨o, d, i, -, -, -, -, rfl⟩ | ⟨w, i, -, -, -, hcommand⟩ |
      ⟨a, c, -, -, hanswer⟩ | ⟨-, ⟨-, rfl⟩ | ⟨-, rfl⟩⟩
    · exact hs
    · exact hs
    · rcases hcommand with ⟨m, b, -, -, -, rfl⟩ | ⟨n, -, -, -, rfl⟩ | ⟨n, -, -, -, rfl⟩ | ⟨n, -, -, -, rfl⟩
      · exact hs
      · exact hs
      · exact (congrArg Setup.fault (State.sendFrame_setup n s)).trans hs
      · exact hs
    · rcases hanswer with ⟨cb, r, -, -, -, rfl⟩ | ⟨-, -, rfl⟩ | ⟨bs, n, ms, -, -, -, rfl⟩ | ⟨cb, bs, r, -, -, -, -, rfl⟩
      · exact (congrArg Setup.fault (State.writeAnswered_setup r s)).trans hs
      · exact hs
      · exact (congrArg Setup.fault (State.frameReceived_setup bs s)).trans hs
      · exact hs
    · rfl
    · exact hs
  rw [hclear] at ht
  cases ht

/-- Settles O52: a step that sets FAULT took an input that raises a fault; with FAULT clear before, `raiseFault` records
the new code. -/
theorem faultedActionHasNoOtherEffect : Obligations.FaultedActionHasNoOtherEffect := by
  intro s t hstep hs ht
  rcases step_next hstep with ⟨-, -, rfl⟩ | ⟨-, -, rfl⟩ | ⟨e, rest, -, -, hi, htake⟩
  · exact absurd (hs.symm.trans ht) (by decide)
  · exact absurd (hs.symm.trans ht) (by decide)
  · obtain ⟨k, j, hk, rfl | rfl⟩ := takeInput_sets_fault (s := s.withInputs rest) htake hs ht
    · exact ⟨by simpa [hs] using hk, by rw [hi]; rfl, .inl rfl⟩
    · exact ⟨by simpa [hs] using hk, by rw [hi]; rfl, .inr rfl⟩

/-! A failed write or read -/

theorem transportAnswer_readFailed {n ms cb : Nat} {bytes : List Byte} {r : CallbackResult}
    (hc : s.tcall = some (.read n ms)) (hcb : CallbackResult.ofCode cb = some r) (hr : r ≠ .success) :
    s.transportAnswer (.read cb bytes) = s.readFailed r := by
  cases r with
  | success => exact absurd rfl hr
  | timeout => simp [State.transportAnswer, hc, hcb]
  | ioError => simp [State.transportAnswer, hc, hcb]

/-- The two results that are no success, by their numbers on the port (30_encoding.md R90, 41_commands.md R139). -/
theorem ofCode_failure {cb : Nat} (h : cb = 1 ∨ cb = 2) : ∃ r, CallbackResult.ofCode cb = some r ∧ r ≠ .success ∧
    mapCb r = if cb = 1 then .timeout else .ioError := by
  rcases h with rfl | rfl
  · exact ⟨.timeout, rfl, by decide, rfl⟩
  · exact ⟨.ioError, rfl, by decide, rfl⟩

/-- Settles O18: in both modes the answer ends the command with the translated result. -/
theorem transportFailureEndsTheCommand : Obligations.TransportFailureEndsTheCommand := by
  intro s rest c cb a hok hr hi hc hcb hkind
  obtain ⟨r, hcode, hne, hresult⟩ := ofCode_failure hcb
  have hend : (s.withInputs rest).transportAnswer a = (s.withInputs rest).closeCall.endCall (mapCb r) := by
    rcases hkind with ⟨rfl, bs, n, ms, rfl⟩ | ⟨bytes, rfl, n, ms, rfl⟩
    · rw [transportAnswer_write (s := s.withInputs rest) hc hcode, writeAnswered_ends (.inr hne)]
    · exact transportAnswer_readFailed (s := s.withInputs rest) hc hcode hne
  rw [step_transport hok hr hi, hend, hresult]
  rfl

/-! An answer that keeps the contract -/

/-- An accepted answer makes the block READY, but for the success of an RTU write, which issues the idle call
(41_commands.md R140-R143). -/
theorem transportAnswer_of_accepted {c : TransportCall} {a : TransportAnswer} (hc : s.tcall = some c)
    (ha : c.accepts a = true) :
    (s.transportAnswer a).inputs = s.inputs ∧
      ((s.transportAnswer a).phase = .ready ∨
        c.phase = .waitWrite ∧ s.mode = .rtu ∧
          s.transportAnswer a = s.closeCall.issue (.idle s.curFlen.toNat) .waitIdle) := by
  rcases transportAnswer_cases a s with ⟨bs, n, ms, cb, r, hcall, -, -, he⟩ | ⟨n, -, -, he⟩ |
    ⟨n, ms, cb, bs, -, -, -, -, he⟩ | ⟨n, ms, cb, bs, r, -, -, -, -, he⟩ | ⟨hrejected, -⟩
  · obtain rfl : c = .write bs n ms := Option.some.inj (hc.symm.trans hcall)
    rcases writeAnswered_cases r s with ⟨hmode, -, hidle⟩ | ⟨-, hend⟩
    · rw [he, hidle]
      exact ⟨rfl, .inr ⟨rfl, hmode, rfl⟩⟩
    · rw [he, hend]
      exact ⟨rfl, .inl rfl⟩
  · rw [he]
    exact ⟨rfl, .inl rfl⟩
  · rw [he]
    exact ⟨State.frameReceived_inputs bs s, .inl (frameReceived_ends bs s).1⟩
  · rw [he]
    exact ⟨rfl, .inl rfl⟩
  · rw [hrejected c hc] at ha
    cases ha

/-- Settles O22: the accepted answer ends the command, or issues the idle call, whose answer ends it in the
last case of `rtuWriteIsFollowedByIdle`. -/
theorem commandEndsIfTransportAnswers : Obligations.CommandEndsIfTransportAnswers := by
  intro s rest c a h hr hc ha hi
  refine ⟨_, step_transport h.paramsOk hr hi, ?_⟩
  obtain ⟨hinputs, hphase⟩ := transportAnswer_of_accepted (s := s.withInputs rest) hc ha
  refine ⟨hinputs, hphase.imp_right fun ⟨hwrite, hmode, he⟩ => ?_⟩
  rw [he]
  obtain ⟨-, -, -, hidle⟩ := rtuWriteIsFollowedByIdle
    { (s.withInputs rest).closeCall.issue (.idle s.curFlen.toNat) .waitIdle with inputs := .transport .idle :: rest }
    rest h.paramsOk hr hmode
  exact ⟨(h.phase_of_tcall hc).trans hwrite, rfl, _, hidle _ rfl rfl, rfl, rfl, rfl⟩

end Sys2Proof.Machine
end

section
/-! PROOFS. The reset family: what a reset input does, by whether a command runs (70_reset_and_hazards.md R240). -/

namespace Sys2Proof.Machine

variable {s : State}

theorem State.takeReset_of_ready (hp : s.phase = .ready) : s.takeReset = s.resetBlock := by
  simp [State.takeReset, s.busy_false_iff.2 hp]

theorem State.takeReset_of_busy (hp : s.phase ≠ .ready) : s.takeReset = s.markRefused :=
  if_pos (s.busy_iff.2 hp)

theorem step_reset {rest : List Input} (hok : s.params.Ok) (hr : s.refused = false) (hi : s.inputs = .reset :: rest) :
    step s = .next (s.withInputs rest).takeReset :=
  step_takeInput hok hr hi

/-- Settles O45: a READY block takes the values of `State.reset` (R42, R44); a BUSY one takes the mark, which with
parameters that satisfy 00_scope.md R9 means `resetWhileBusy` whatever inputs are still to come. -/
theorem resetEvent : Obligations.ResetEvent := by
  intro s rest hok hr hi
  rw [step_reset hok hr hi]
  refine ⟨fun hready => ?_, fun hbusy => ⟨?_, fun is => ?_⟩⟩
  · rw [State.takeReset_of_ready (s := s.withInputs rest) hready]
    exact ⟨_, rfl, rfl, rfl, rfl, rfl, rfl, rfl, rfl, rfl, rfl, rfl, rfl, Memory.read_nil, Memory.read_nil⟩
  · rw [State.takeReset_of_busy (s := s.withInputs rest) hbusy]
    rfl
  · exact step_eq_refused_iff.2 ⟨rfl, (if_pos hok).symm⟩

end Sys2Proof.Machine
end
